-- ==== Sys2Proof/Word.lean ====
section
/-! DEFINITION. The word type of the hardware: a byte. Raw register values are lists of bytes,
first byte first (00_scope.md R10). -/

namespace Sys2Proof

/-- One byte of a raw register value (00_scope.md R10). -/
abbrev Byte := BitVec 8

end Sys2Proof
end

