-- ==== Sys2Proof/Syntax.lean ====
section
/-! DEFINITION. The names of the hardware (layouts, fields, namespaces, modes, bus words) and the
instructions: one constructor of Instr per row of spec/opcode_table.json. -/

namespace Sys2Proof

/-- The five declared register layouts (10_state.md R24). -/
inductive Layout where
  | alsConf | alsWh | alsWl | psm | alsInt
  deriving DecidableEq, Repr, Inhabited

/-- The named fields of the layouts (10_state.md R26). -/
inductive Field where
  | gain | it | pers | intEn | sd | psmMode | psmEn | msb | lsb | intLow | intHigh
  deriving DecidableEq, Repr, Inhabited

/-- The seven option namespaces (10_state.md R26). -/
inductive Namespace where
  | gain | it | pers | intEn | sd | psmMode | psmEn
  deriving DecidableEq, Repr, Inhabited

/-- The six operating modes of the pressure and temperature sensor (10_state.md R29). -/
inductive Mode where
  | combined | singleTemperature | singlePressure | dormant63ms | dormant125ms | dormant1s
  deriving DecidableEq, Repr, Inhabited

/-- One item of a layout: a named field or a reserved filler, with its width (10_state.md R24). -/
inductive LayoutItem where
  | field (name : Field) (width : Nat)
  | filler (width : Nat)
  deriving DecidableEq, Repr

/-- The selector of ENCODE, UNPACK and DECFLAGS, read as a layout identifier (30_encoding.md R76;
a type of its own, 90_conflicts.md C8). -/
structure LayoutSel where
  bits : BitVec 4
  deriving DecidableEq, Repr

/-- The selector of LOOKUP, read as a namespace identifier (30_encoding.md R76, 90_conflicts.md C8). -/
structure FieldSel where
  bits : BitVec 4
  deriving DecidableEq, Repr

/-- The selector of MODECMD, read as a mode identifier (30_encoding.md R76). -/
structure ModeSel where
  bits : BitVec 4
  deriving DecidableEq, Repr

/-- The logical registers whose words travel on the bus (10_state.md R35; "logical register" as in
90_conflicts.md C6: the pressure and temperature words are composites of one-byte registers). -/
inductive RegWord where
  | alsConf | alsWh | alsWl | psm | alsInt | ambient | white | pressure | temperature | command
  deriving DecidableEq, Repr

/-- Where a word to be decoded comes from: the request port of the block (30_encoding.md R74) or a
logical register of a sensor. The register's identity, never the word's content, says which format
applies (30_encoding.md R81). -/
inductive Source where
  | requestPort
  | register (r : RegWord)
  deriving DecidableEq, Repr

/-- The instructions, in the order of spec/opcode_table.json. The ten operations carry the bits of
their selector nibble (30_encoding.md R74 to R76; the rest of a request stands in the request
record); don't-care bits are carried as `x`, so that no bit of a request code is dropped. The nine
formats carry the named fields of the register word (30_encoding.md R61 to R69). -/
inductive Instr where
  /-- ENCODE, 40_codec.md R90. -/
  | encode (l : LayoutSel)
  /-- UNPACK, 40_codec.md R94. -/
  | unpack (l : LayoutSel)
  /-- DECFLAGS, 40_codec.md R96. -/
  | decflags (l : LayoutSel)
  /-- DECP24, 42_measurement_decoder.md R125. -/
  | decp24 (x : BitVec 4)
  /-- DECT16, 42_measurement_decoder.md R127. -/
  | dect16 (x : BitVec 4)
  /-- DECU16, 42_measurement_decoder.md R128. -/
  | decu16 (x : BitVec 4)
  /-- TOLUX, 42_measurement_decoder.md R134: `r` is the resolution index. -/
  | tolux (x : BitVec 2) (r : BitVec 2)
  /-- LOOKUP, 41_config_tables.md R110. -/
  | lookup (f : FieldSel)
  /-- LKREFRESH, 41_config_tables.md R114. -/
  | lkrefresh (x : BitVec 4)
  /-- MODECMD, 41_config_tables.md R117. -/
  | modecmd (m : ModeSel)
  /-- A word of ALS register 0x00, 30_encoding.md R61. -/
  | fmtAlsConf (gain : BitVec 2) (it : BitVec 4) (pers : BitVec 2) (intEn sd : BitVec 1)
  /-- A word of ALS register 0x01, 30_encoding.md R62. -/
  | fmtAlsWh (msb lsb : Byte)
  /-- A word of ALS register 0x02, 30_encoding.md R63. -/
  | fmtAlsWl (msb lsb : Byte)
  /-- A word of ALS register 0x03, 30_encoding.md R64. -/
  | fmtPsm (mode : BitVec 2) (en : BitVec 1)
  /-- A word of ALS register 0x06, 30_encoding.md R65. -/
  | fmtAlsInt (low high : BitVec 1)
  /-- A byte of PT register 0x30 other than the six defined ones, 30_encoding.md R66. -/
  | fmtCmd (command : Byte)
  /-- A composite pressure word, 30_encoding.md R67. -/
  | fmtP24 (v : BitVec 24)
  /-- A composite temperature word, 30_encoding.md R68. -/
  | fmtT16 (v : BitVec 16)
  /-- A count word of ALS register 0x04 (ambient) or 0x05 (white), 30_encoding.md R69. -/
  | fmtU16 (white : Bool) (v : BitVec 16)
  /-- Command byte 0x0A, 41_config_tables.md R118. -/
  | cmdCombined
  /-- Command byte 0x08, 41_config_tables.md R118. -/
  | cmdSingleTemperature
  /-- Command byte 0x09, 41_config_tables.md R118. -/
  | cmdSinglePressure
  /-- Command byte 0x1B, 41_config_tables.md R118. -/
  | cmdDormant63ms
  /-- Command byte 0x2B, 41_config_tables.md R118. -/
  | cmdDormant125ms
  /-- Command byte 0xFB, 41_config_tables.md R118. -/
  | cmdDormant1s
  deriving DecidableEq, Repr

end Sys2Proof
end

