-- ==== Sys2Proof/Config.lean ====
section
/-! DEFINITION. The configuration: the shape of the read-only option and refresh tables, the
constraints the spec puts on them, and the free values (opaque constants, no body). -/

namespace Sys2Proof

/-- The width of a namespace's field (10_state.md R26). -/
def namespaceWidth (f : Namespace) : Nat :=
  match f with
  | .gain => 2
  | .it => 4
  | .pers => 2
  | .intEn => 1
  | .sd => 1
  | .psmMode => 2
  | .psmEn => 1

/-- One entry of the option table: `OPT(space, name) = code` (10_state.md R27). -/
structure OptRow where
  space : Namespace
  name : String
  code : Byte
  deriving DecidableEq, Repr, Inhabited

/-- One entry of the port's name map: slot index `index` stands for `name` (10_state.md R31). -/
structure NameRow where
  space : Namespace
  index : BitVec 16
  name : String
  deriving DecidableEq, Repr, Inhabited

/-- One entry of the refresh table: `REFRESH(name) = (itCode, psmCode)` (10_state.md R28). -/
structure RefreshRow where
  name : String
  itCode : BitVec 4
  psmCode : BitVec 2
  deriving DecidableEq, Repr, Inhabited

/-- One entry of the port's duration map: index `index` stands for the duration `name`. -/
structure DurationRow where
  index : BitVec 16
  name : String
  deriving DecidableEq, Repr, Inhabited

/-- The open tables (10_state.md R27, R28; 92_eei_decisions.md D19): read-only, built before the
first request (70_reset_and_hazards.md R191). -/
structure Tables where
  optRows : List OptRow
  optNames : List NameRow
  refreshRows : List RefreshRow
  refreshNames : List DurationRow
  deriving DecidableEq, Repr, Inhabited

/-- The constraints the spec puts on the open tables (10_state.md R27, R28; 41_config_tables.md R112,
R115; 92_eei_decisions.md D19): `OPT` is a partial function whose codes fit their fields and which
has the two given entries and not `"foo"` for GAIN; `REFRESH` has exactly 16 keys, `"1100ms"` among
them, and pairwise distinct pairs; an index stands for at most one name. -/
def tablesWf (t : Tables) : Bool :=
  decide (t.optRows.map (fun r => (r.space, r.name))).Nodup
  && t.optRows.all (fun r => decide (r.code.toNat < 2 ^ namespaceWidth r.space))
  && t.optRows.contains ⟨.gain, "1x", 0x0#8⟩
  && t.optRows.contains ⟨.it, "25ms", 0xC#8⟩
  && t.optRows.all (fun r => !(r.space == .gain && r.name == "foo"))
  && decide (t.optNames.map (fun r => (r.space, r.index))).Nodup
  && decide (t.refreshRows.length = 16)
  && decide (t.refreshRows.map (fun r => r.name)).Nodup
  && decide (t.refreshRows.map (fun r => (r.itCode, r.psmCode))).Nodup
  && t.refreshRows.any (fun r => r.name == "1100ms")
  && decide (t.refreshNames.map (fun r => r.index)).Nodup

/-- What Transport answers to one call (92_eei_decisions.md D32): bytes (an acknowledgement, for a
write), or an error. -/
inductive Answer where
  | bytes (raw : List Byte)
  | busError
  | protocolError
  deriving DecidableEq, Repr, Inhabited

/-- The tables of the machine, uninterpreted (OPT_TABLE and REFRESH_TABLE, 92_eei_decisions.md D19).
Free value, notes/assumptions/3.md. -/
opaque Config.tablesRaw : Tables

/-- ROUND_FN, uninterpreted (92_eei_decisions.md D16). Free value, notes/assumptions/16.md. That it gives a
rational for every value and number of places is the model's choice (DESIGN CHOICE, the same entry). -/
opaque Config.roundFn : Rat → Int → Rat

/-- FLOAT_FMT, uninterpreted: the float image of an exact result (92_eei_decisions.md D17). Free value,
notes/assumptions/16.md. That every image is a rational is the model's choice (DESIGN CHOICE,
notes/assumptions/16.md): the format is left open, and 42_measurement_decoder.md R130 excludes NaN and
infinity only at the default scales; here no image is an infinity, a NaN or a zero with a sign, at other
scales, of a value ROUND_FN has rounded, and in TOLUX too. -/
opaque Config.floatFmt : Rat → Rat

/-- What Transport answers to the `k`-th call that no script covers (92_eei_decisions.md D32). Free
value, notes/assumptions/12.md. -/
opaque Config.transportAnswer : Nat → Answer

/-- The status of CANCEL_OUTCOME, uninterpreted (92_eei_decisions.md D33). Free value,
notes/assumptions/15.md. -/
opaque Config.cancelStatus : BitVec 4

/-- Some tables that meet the constraints: they show that the constraints can be met, and nothing
else; no entry but the given ones means anything. -/
def Config.tablesExample : Tables where
  optRows := [⟨.gain, "1x", 0x0#8⟩, ⟨.it, "25ms", 0xC#8⟩]
  optNames := [⟨.gain, 0#16, "1x"⟩, ⟨.it, 0#16, "25ms"⟩, ⟨.gain, 1#16, "foo"⟩]
  refreshRows :=
    [⟨"1100ms", 0, 0⟩, ⟨"d01", 0, 1⟩, ⟨"d02", 0, 2⟩, ⟨"d03", 0, 3⟩,
     ⟨"d04", 1, 0⟩, ⟨"d05", 1, 1⟩, ⟨"d06", 1, 2⟩, ⟨"d07", 1, 3⟩,
     ⟨"d08", 2, 0⟩, ⟨"d09", 2, 1⟩, ⟨"d10", 2, 2⟩, ⟨"d11", 2, 3⟩,
     ⟨"d12", 3, 0⟩, ⟨"d13", 3, 1⟩, ⟨"d14", 3, 2⟩, ⟨"d15", 3, 3⟩]
  refreshNames := [⟨0#16, "1100ms"⟩, ⟨1#16, "d01"⟩]

/-- The tables at reset: any tables that meet the constraints. `tablesRaw` is uninterpreted, so what
is proved of `Config.tables` holds for every table that meets them (notes/assumptions/3.md). -/
def Config.tables : Tables :=
  if tablesWf Config.tablesRaw then Config.tablesRaw else Config.tablesExample

end Sys2Proof
end

