-- ==== Sys2Proof/WellFormed.lean ====
section
/-! DEFINITION. Which terms of Instr stand for a word of their row. Every operand has the exact
width of its field, so one check is left: a command byte that has a row of its own
(41_config_tables.md R118) is that row's instruction, not fmt.CMD's. -/

namespace Sys2Proof

/-- The six defined command bytes (10_state.md R29, 41_config_tables.md R118). -/
def definedCommands : List Byte := [0x0A#8, 0x08#8, 0x09#8, 0x1B#8, 0x2B#8, 0xFB#8]

/-- `i` is the instruction of some word (notes/assumptions/9.md). -/
def wellFormed (i : Instr) : Bool :=
  match i with
  | .encode _ => true
  | .unpack _ => true
  | .decflags _ => true
  | .decp24 _ => true
  | .dect16 _ => true
  | .decu16 _ => true
  | .tolux _ _ => true
  | .lookup _ => true
  | .lkrefresh _ => true
  | .modecmd _ => true
  | .fmtAlsConf _ _ _ _ _ => true
  | .fmtAlsWh _ _ => true
  | .fmtAlsWl _ _ => true
  | .fmtPsm _ _ => true
  | .fmtAlsInt _ _ => true
  | .fmtCmd c => !definedCommands.contains c
  | .fmtP24 _ => true
  | .fmtT16 _ => true
  | .fmtU16 _ _ => true
  | .cmdCombined => true
  | .cmdSingleTemperature => true
  | .cmdSinglePressure => true
  | .cmdDormant63ms => true
  | .cmdDormant125ms => true
  | .cmdDormant1s => true

end Sys2Proof
end

