-- ==== Sys2Proof/Decode.lean ====
section
/-! DEFINITION. Byte order, the decoder from a word of a source to an instruction, and the encoder.
The request code has the pattern oooossss (30_encoding.md R74 to R76); the register words have the
bit positions of 30_encoding.md R61 to R69. Decoding is total and rejects by name. -/

namespace Sys2Proof

/-- `be(raw)`: the unsigned value of a byte sequence, first byte most significant (00_scope.md R10). -/
def be (raw : List Byte) : Nat :=
  raw.foldl (fun v b => v * 256 + b.toNat) 0

/-- `bytes_n(v)`: the `n`-byte sequence of `v`, most significant byte first (00_scope.md R10). -/
def bytesOf (n v : Nat) : List Byte :=
  (List.range n).map (fun k => BitVec.ofNat 8 (v / 256 ^ (n - 1 - k)))

/-- Why a word stands for no instruction. -/
inductive DecodeError where
  /-- A request code whose `op` names no operation (30_encoding.md R79). -/
  | illegalRequest
  /-- A word whose byte count is not the source's (20_memory.md R46). -/
  | malformedLength
  deriving DecidableEq, Repr

/-- The instruction of a request code (30_encoding.md R74 to R76, R79). -/
def decodeRequest (code : Byte) : Except DecodeError Instr :=
  let sel := code.extractLsb' 0 4
  match (code.extractLsb' 4 4).toNat with
  | 0x1 => .ok (.encode ⟨sel⟩)
  | 0x2 => .ok (.unpack ⟨sel⟩)
  | 0x3 => .ok (.decflags ⟨sel⟩)
  | 0x4 => .ok (.decp24 sel)
  | 0x5 => .ok (.dect16 sel)
  | 0x6 => .ok (.decu16 sel)
  | 0x7 => .ok (.tolux (code.extractLsb' 2 2) (code.extractLsb' 0 2))
  | 0x8 => .ok (.lookup ⟨sel⟩)
  | 0x9 => .ok (.lkrefresh sel)
  | 0xA => .ok (.modecmd ⟨sel⟩)
  | _ => .error .illegalRequest

/-- A one-byte register word. -/
def word8 (raw : List Byte) : Except DecodeError (BitVec 8) :=
  match raw with
  | [b0] => .ok b0
  | _ => .error .malformedLength

/-- A two-byte register word, first byte most significant (20_memory.md R43). -/
def word16 (raw : List Byte) : Except DecodeError (BitVec 16) :=
  match raw with
  | [b0, b1] => .ok (b0 ++ b1)
  | _ => .error .malformedLength

/-- A three-byte composite word, first byte most significant (20_memory.md R43, R44). -/
def word24 (raw : List Byte) : Except DecodeError (BitVec 24) :=
  match raw with
  | [b0, b1, b2] => .ok (b0 ++ b1 ++ b2)
  | _ => .error .malformedLength

/-- ALS_CONF, decode pattern `---gg-iiiipp--es` (30_encoding.md R61). -/
def decodeAlsConf (v : BitVec 16) : Instr :=
  .fmtAlsConf (v.extractLsb' 11 2) (v.extractLsb' 6 4) (v.extractLsb' 4 2)
    (v.extractLsb' 1 1) (v.extractLsb' 0 1)

/-- PSM, decode pattern `-----mme` (30_encoding.md R64). -/
def decodePsm (v : BitVec 8) : Instr :=
  .fmtPsm (v.extractLsb' 1 2) (v.extractLsb' 0 1)

/-- ALS_INT, decode pattern `lh--------------` (30_encoding.md R65). -/
def decodeAlsInt (v : BitVec 16) : Instr :=
  .fmtAlsInt (v.extractLsb' 15 1) (v.extractLsb' 14 1)

/-- A byte of the command register: the six defined bytes have rows of their own
(30_encoding.md R66, 41_config_tables.md R118). -/
def decodeCommand (c : Byte) : Instr :=
  if c = 0x0A#8 then .cmdCombined
  else if c = 0x08#8 then .cmdSingleTemperature
  else if c = 0x09#8 then .cmdSinglePressure
  else if c = 0x1B#8 then .cmdDormant63ms
  else if c = 0x2B#8 then .cmdDormant125ms
  else if c = 0xFB#8 then .cmdDormant1s
  else .fmtCmd c

/-- The instruction of a register word; which format applies is the register's property
(30_encoding.md R60, R81). -/
def decodeWord (r : RegWord) (raw : List Byte) : Except DecodeError Instr :=
  match r with
  | .alsConf => (word16 raw).map decodeAlsConf
  | .alsWh => (word16 raw).map (fun v => .fmtAlsWh (v.extractLsb' 8 8) (v.extractLsb' 0 8))
  | .alsWl => (word16 raw).map (fun v => .fmtAlsWl (v.extractLsb' 8 8) (v.extractLsb' 0 8))
  | .psm => (word8 raw).map decodePsm
  | .alsInt => (word16 raw).map decodeAlsInt
  | .ambient => (word16 raw).map (fun v => .fmtU16 false v)
  | .white => (word16 raw).map (fun v => .fmtU16 true v)
  | .pressure => (word24 raw).map (fun v => .fmtP24 v)
  | .temperature => (word16 raw).map (fun v => .fmtT16 v)
  | .command => (word8 raw).map decodeCommand

/-- The decoder: the instruction of a word of a source, or the name of why there is none. -/
def decode (src : Source) (raw : List Byte) : Except DecodeError Instr :=
  match src with
  | .requestPort =>
    match raw with
    | [code] => decodeRequest code
    | _ => .error .malformedLength
  | .register r => decodeWord r raw

/-! ### The encoder -/

/-- The two bytes of a 16-bit word, most significant first. -/
def split16 (v : BitVec 16) : List Byte :=
  [v.extractLsb' 8 8, v.extractLsb' 0 8]

/-- The three bytes of a 24-bit word, most significant first. -/
def split24 (v : BitVec 24) : List Byte :=
  [v.extractLsb' 16 8, v.extractLsb' 8 8, v.extractLsb' 0 8]

/-- The word of an instruction, from the patterns of spec/opcode_table.json (30_encoding.md R61 to
R69, R74 to R76, 41_config_tables.md R118). Filler bits are 0 (30_encoding.md R73). -/
def encode (i : Instr) : List Byte :=
  match i with
  | .encode l => [0x1#4 ++ l.bits]
  | .unpack l => [0x2#4 ++ l.bits]
  | .decflags l => [0x3#4 ++ l.bits]
  | .decp24 x => [0x4#4 ++ x]
  | .dect16 x => [0x5#4 ++ x]
  | .decu16 x => [0x6#4 ++ x]
  | .tolux x r => [0x7#4 ++ x ++ r]
  | .lookup f => [0x8#4 ++ f.bits]
  | .lkrefresh x => [0x9#4 ++ x]
  | .modecmd m => [0xA#4 ++ m.bits]
  | .fmtAlsConf gain it pers intEn sd =>
    split16 (0#3 ++ gain ++ 0#1 ++ it ++ pers ++ 0#2 ++ intEn ++ sd)
  | .fmtAlsWh msb lsb => split16 (msb ++ lsb)
  | .fmtAlsWl msb lsb => split16 (msb ++ lsb)
  | .fmtPsm mode en => [0#5 ++ mode ++ en]
  | .fmtAlsInt low high => split16 (low ++ high ++ 0#14)
  | .fmtCmd c => [c]
  | .fmtP24 v => split24 v
  | .fmtT16 v => split16 v
  | .fmtU16 _ v => split16 v
  | .cmdCombined => [0x0A#8]
  | .cmdSingleTemperature => [0x08#8]
  | .cmdSinglePressure => [0x09#8]
  | .cmdDormant63ms => [0x1B#8]
  | .cmdDormant125ms => [0x2B#8]
  | .cmdDormant1s => [0xFB#8]

/-- The source whose word `encode i` is. -/
def sourceOf (i : Instr) : Source :=
  match i with
  | .encode _ => .requestPort
  | .unpack _ => .requestPort
  | .decflags _ => .requestPort
  | .decp24 _ => .requestPort
  | .dect16 _ => .requestPort
  | .decu16 _ => .requestPort
  | .tolux _ _ => .requestPort
  | .lookup _ => .requestPort
  | .lkrefresh _ => .requestPort
  | .modecmd _ => .requestPort
  | .fmtAlsConf _ _ _ _ _ => .register .alsConf
  | .fmtAlsWh _ _ => .register .alsWh
  | .fmtAlsWl _ _ => .register .alsWl
  | .fmtPsm _ _ => .register .psm
  | .fmtAlsInt _ _ => .register .alsInt
  | .fmtCmd _ => .register .command
  | .fmtP24 _ => .register .pressure
  | .fmtT16 _ => .register .temperature
  | .fmtU16 white _ => .register (if white then .white else .ambient)
  | .cmdCombined => .register .command
  | .cmdSingleTemperature => .register .command
  | .cmdSinglePressure => .register .command
  | .cmdDormant63ms => .register .command
  | .cmdDormant125ms => .register .command
  | .cmdDormant1s => .register .command

/-! ### Bare words of the opcode table -/

/-- The source of a bare table word. The spec's words carry their source; a bare number does not, so
the most specific row of spec/opcode_table.json that matches it says which, and among equally
specific rows the first (DESIGN CHOICE, notes/assumptions/10.md). -/
def tableSource (nbits w : Nat) : Option Source :=
  if 2 ^ nbits ≤ w then none
  else match nbits with
    | 8 =>
      if definedCommands.contains (BitVec.ofNat 8 w) then some (.register .command)
      else if w < 8 then some (.register .psm)
      else if 0x10 ≤ w ∧ w < 0xB0 then some .requestPort
      else some (.register .command)
    | 16 =>
      if w % 2 ^ 14 = 0 then some (.register .alsInt)
      else if BitVec.ofNat 16 w &&& 0xE40C#16 = 0#16 then some (.register .alsConf)
      else some (.register .alsWh)
    | 24 => some (.register .pressure)
    | _ => none

/-- The instruction the decoder reads from a table word: the register value `w`, laid out in the
hardware's byte order, from the word's source. -/
def decodeTableWord (nbits w : Nat) : Option Instr :=
  match tableSource nbits w with
  | none => none
  | some src =>
    match decode src (bytesOf (nbits / 8) w) with
    | .ok i => some i
    | .error _ => none

end Sys2Proof
end

