-- ==== Sys2Proof/Machine/State.lean ====
section
/-! DEFINITION. The records of the hardware (requests, responses, errors, bus accesses) and State,
plain data. The block itself has no mutable state (10_state.md R20); State holds its request and
response ports, its read-only tables, and the environment's scripted Transport, bus trace and
exclusive scope (95_test_vectors.md section 3). -/

namespace Sys2Proof.Machine

/-! ### Requests and responses -/

/-- The errors (60_exceptions.md R165, R182). `cancelled` stands for CANCEL_OUTCOME, the open outcome
of a cancelled read (43_environment_ops.md R152): it is no error of the taxonomy. -/
inductive Error where
  | configurationError
  | unknownRegisterError
  | unknownOptionError
  | unsupportedRefreshTimeError
  | protocolError
  | busError
  | retryExhausted
  | illegalRequest
  | cancelled
  deriving DecidableEq, Repr, Inhabited

/-- An operand slot of a request (10_state.md R31). -/
structure Slot where
  present : Bool
  named : Bool
  val : BitVec 16
  deriving DecidableEq, Repr, Inhabited

/-- The input lines of the request port besides the request code (10_state.md R30). -/
structure PortInputs where
  nbytes : BitVec 2
  b0 : Byte
  b1 : Byte
  b2 : Byte
  slot0 : Slot
  slot1 : Slot
  slot2 : Slot
  slot3 : Slot
  slot4 : Slot
  deriving DecidableEq, Repr, Inhabited

/-- A slot that carries no operand. -/
def Slot.absent : Slot := ⟨false, false, 0#16⟩

/-- The request lines between operations (10_state.md R37; notes/assumptions/2.md). -/
def PortInputs.idle : PortInputs :=
  ⟨0#2, 0#8, 0#8, 0#8, Slot.absent, Slot.absent, Slot.absent, Slot.absent, Slot.absent⟩

/-- A request record (10_state.md R30). -/
structure Request where
  code : Byte
  inputs : PortInputs
  deriving DecidableEq, Repr, Inhabited

/-- The five field-output slots `fo[0..4]`; `none` is `present = 0` (10_state.md R34). -/
structure FieldOuts where
  fo0 : Option Byte
  fo1 : Option Byte
  fo2 : Option Byte
  fo3 : Option Byte
  fo4 : Option Byte
  deriving DecidableEq, Repr, Inhabited

/-- What a successful response carries (10_state.md R32 to R34); a field that the operation's rule
does not name carries no value. The last three are answers of the environment's calls
(43_environment_ops.md R146, R158). -/
inductive Result where
  /-- Raw output bytes, of ENCODE and MODECMD; the bytes of a driver's register read. -/
  | bytes (raw : List Byte)
  /-- Field outputs, of UNPACK, DECFLAGS, LOOKUP and LKREFRESH. -/
  | fields (fo : FieldOuts)
  /-- The numeric result, of the measurement decoder. -/
  | res (r : BitVec 32)
  /-- A write's acknowledgement, which carries no data (43_environment_ops.md R146). -/
  | ack
  /-- The physical value of a consumer call: the exact rational, which is normative, and the "float"
  that the call's signature names (42_measurement_decoder.md R130, R135). -/
  | value (q float : Rat)
  /-- The count of a consumer call (43_environment_ops.md R156). -/
  | count (n : Nat)
  deriving DecidableEq, Repr

/-- A response: `Ok(result)` or `Err(E)` (10_state.md R32, 92_eei_decisions.md D14). -/
inductive Response where
  | ok (r : Result)
  | err (e : Error)
  deriving DecidableEq, Repr

/-! ### Named values of the abstract level -/

/-- A key of ENCODE's `values` (40_codec.md R90): a field, or a name that no layout declares (the
port's present slot with no field, 30_encoding.md R77). -/
inductive Key where
  | field (f : Field)
  | unknown (slot : Nat)
  deriving DecidableEq, Repr

/-- An operand of ENCODE (10_state.md R31): a code (any integer), an option name, or a port index that
stands for no name, which is "a name defined nowhere" (40_codec.md R98). -/
inductive Operand where
  | code (n : Int)
  | named (o : String)
  | nameless
  deriving DecidableEq, Repr

/-! ### The environment -/

/-- An address of the bus: 7-bit device address and register address (20_memory.md R40). The spec does
not state the width of a register address; 8 bits, which hold every register address of the map, are
the model's choice (DESIGN CHOICE, notes/assumptions/26.md). -/
structure BusAddr where
  device : BitVec 7
  reg : BitVec 8
  deriving DecidableEq, Repr, Inhabited

/-- How one Transport call ended (43_environment_ops.md R145, R146). -/
inductive Xfer where
  | done
  | busError
  | protocolError
  deriving DecidableEq, Repr

/-- One entry of the bus trace (95_test_vectors.md section 3): a `readRegister` call, a
`writeRegister` call, or an end of the exclusive scope (43_environment_ops.md R151). -/
inductive BusEvent where
  | read (a : BusAddr) (len : Nat) (x : Xfer)
  | write (a : BusAddr) (raw : List Byte) (x : Xfer)
  | enterScope
  | leaveScope
  deriving DecidableEq, Repr

/-- The caller's retry arguments (43_environment_ops.md R147, R152): the bound on attempts, and how
many attempts are left before its cancellation signal or deadline (`none`: there is none). With them,
which caller makes the call (20_memory.md R50, notes/assumptions/18.md). -/
structure RetryArgs where
  maxAttempts : Nat
  cancelIn : Option Nat
  caller : Nat
  deriving DecidableEq, Repr

/-- The eight consumer calls (43_environment_ops.md R158), and the three register calls that a driver
makes itself (43_environment_ops.md R145 to R147, R161). The resolution index of `getAmbientLux` is
the one the caller holds (42_measurement_decoder.md R136). No call takes or releases the exclusive scope
by itself: 20_memory.md R52 leaves that call open, and here the composite reads alone take the scope, so
that no caller can hold it over its other reads or writes (DESIGN CHOICE, notes/assumptions/14.md). -/
inductive Call where
  | getPressure (round : Option Int)
  | getTemperature (round : Option Int)
  | getAmbientLux (resolution : BitVec 2)
  | getWhiteCount
  | setConfig (namedOptions : List (Key × Operand))
  | setPowerSaveMode (namedOptions : List (Key × Operand))
  | setThresholdWindow (high : Bool) (msb lsb : Int)
  | setMode (commandCode : Byte)
  | readRegister (a : BusAddr) (length : Nat)
  | readWithRetry (a : BusAddr) (length : Nat)
  | writeRegister (a : BusAddr) (raw : List Byte)
  deriving DecidableEq, Repr

/-- One turn of a caller that reads with the retry policy outside an exclusive scope: how many attempts
it makes before other callers get in between, and how many of their waiting items then go ahead of it,
at most (20_memory.md R50, notes/assumptions/18.md). -/
structure Turn where
  attempts : Nat
  ahead : Nat
  deriving DecidableEq, Repr

/-- What is presented to the machine, one item a step: a request to the block, a register word on the
bus, or a consumer call, each by one of the callers (20_memory.md R50, notes/assumptions/18.md); or a
reset, which lands during the operation that answers a caller's request, or between operations
(70_reset_and_hazards.md R190, 92_eei_decisions.md D27; notes/assumptions/27.md). -/
inductive Item where
  | request (caller : Nat) (r : Request)
  | word (caller : Nat) (r : RegWord) (raw : List Byte)
  | call (args : RetryArgs) (c : Call)
  | reset (caller : Nat) (during : Option Request)
  deriving DecidableEq, Repr

/-- The caller that presents an item; of a reset, the caller whose request it lands in. -/
def Item.caller (i : Item) : Nat :=
  match i with
  | .request p _ => p
  | .word p _ _ => p
  | .call args _ => args.caller
  | .reset p _ => p

/-! ### State -/

/-- The machine. INVENTORY.md, under State, gives each field's rule and reset value. -/
structure State where
  /-- The read-only option and refresh tables (10_state.md R21, R27, R28). -/
  tables : Tables
  /-- Items presented and not yet served, oldest first (70_reset_and_hazards.md R201). -/
  pending : List Item
  /-- The request port's input lines (10_state.md R30). -/
  port : PortInputs
  /-- The responses given, oldest first (10_state.md R32, 70_reset_and_hazards.md R201). -/
  responses : List Response
  /-- The bus trace, oldest first (95_test_vectors.md section 3). -/
  bus : List BusEvent
  /-- Transport's scripted answers, the next first (95_test_vectors.md section 3). -/
  script : List Answer
  /-- The model's own counter: free Transport answers drawn (notes/assumptions/12.md). -/
  asked : Nat
  /-- The exclusive scope is held (43_environment_ops.md R151). -/
  scope : Bool
  /-- The log of failed attempts (43_environment_ops.md R147). -/
  log : List BusAddr
  /-- The caller's retry arguments (43_environment_ops.md R147). -/
  retry : RetryArgs
  /-- The turns in which other callers get in between the attempts of reads outside a scope, the next
  first (20_memory.md R50); with none left a read makes all its attempts (notes/assumptions/18.md). -/
  turns : List Turn
  deriving DecidableEq, Repr

/-- Faults: the machine stops. -/
inductive Fault where
  /-- Raised by every access to the bus, single or composite, that meets an exclusive scope held by
  nobody who will release it: such a scope blocks every later bus user (70_reset_and_hazards.md R193),
  so the user never goes on. Whether the scope is re-entrant, and whether single-register accesses
  take it, is not fixed (20_memory.md R52, notes/assumptions/14.md). Safe: the model stops where the
  hardware waits or may go on. No step leaves the scope held. -/
  | scopeHeld
  deriving DecidableEq, Repr

/-- Refusals: no meaning for what was asked. -/
inductive Refusal where
  /-- Raised by an arm of exec whose instruction has no meaning yet; no arm does. Safe. -/
  | notModelled (mnemonic : String)
  /-- Raised by a call that reads with `maxAttempts` below 1, a broken precondition for which
  no outcome is given (43_environment_ops.md R148, 93_implementation_defined.md U8). Safe. -/
  | attemptsOutsideDomain
  /-- Raised by `decodePressure` and `decodeTemperature` at a scale of 0 or less
  (42_measurement_decoder.md R126, 93_implementation_defined.md U13). No step raises it: the calls
  use the default scales. Safe. -/
  | scaleOutsideDomain
  deriving DecidableEq, Repr

/-- The machine as it starts, right after reset (10_state.md R37, 70_reset_and_hazards.md R190; a reset
that lands on a machine already running is `State.resetNow`): the tables are in
place, nothing is pending, nothing has been answered and nothing has happened on the bus. The spec
gives no value to the other fields; the idle port, the released scope, the empty log, the empty script
and turns (the outside world has supplied none) and the retry arguments are the model's choices
(DESIGN CHOICE, notes/assumptions/2.md, 12.md, 15.md, 18.md). -/
def State.reset : State where
  tables := Config.tables
  pending := []
  port := PortInputs.idle
  responses := []
  bus := []
  script := []
  asked := 0
  scope := false
  log := []
  retry := ⟨1, none, 0⟩
  turns := []

end Sys2Proof.Machine
end

