-- ==== Sys2Proof/Machine/Operands.lean ====
section
/-! DEFINITION. The constant tables (layouts, namespaces, modes, resolutions, register map), the
lookups in the open tables, and how the request record's lines are read as operands. -/

namespace Sys2Proof.Machine

/-! ### Layouts (10_state.md R24, R26) -/

/-- `LAYOUT(L)`: the identifier's layout, where it has one (10_state.md R24). -/
def layoutOfId (l : Nat) : Option Layout :=
  match l with
  | 0x0 => some .alsConf
  | 0x1 => some .alsWh
  | 0x2 => some .alsWl
  | 0x3 => some .psm
  | 0x6 => some .alsInt
  | _ => none

/-- The items of a layout, most significant first (10_state.md R24). -/
def layoutItems (l : Layout) : List LayoutItem :=
  match l with
  | .alsConf =>
    [.filler 3, .field .gain 2, .filler 1, .field .it 4, .field .pers 2, .filler 2,
     .field .intEn 1, .field .sd 1]
  | .alsWh => [.field .msb 8, .field .lsb 8]
  | .alsWl => [.field .msb 8, .field .lsb 8]
  | .psm => [.filler 5, .field .psmMode 2, .field .psmEn 1]
  | .alsInt => [.field .intLow 1, .field .intHigh 1, .filler 14]

/-- `LEN(L)`, in bytes (10_state.md R24). -/
def layoutLen (l : Layout) : Nat :=
  match l with
  | .alsConf => 2
  | .alsWh => 2
  | .alsWl => 2
  | .psm => 1
  | .alsInt => 2

/-- The width of an item. -/
def itemWidth (i : LayoutItem) : Nat :=
  match i with
  | .field _ w => w
  | .filler w => w

/-- The total width of some items. -/
def itemsWidth (is : List LayoutItem) : Nat :=
  match is with
  | [] => 0
  | i :: rest => itemWidth i + itemsWidth rest

/-- The named fields of some items, in order. -/
def itemFields (is : List LayoutItem) : List Field :=
  match is with
  | [] => []
  | .field f _ :: rest => f :: itemFields rest
  | .filler _ :: rest => itemFields rest

/-- The named fields of a layout, most significant first: field `k` is fed by slot `k`
(30_encoding.md R77). -/
def layoutFields (l : Layout) : List Field :=
  itemFields (layoutItems l)

/-! ### Namespaces, modes, resolutions -/

/-- The namespace of an identifier `F` (10_state.md R26). -/
def namespaceOfId (f : Nat) : Option Namespace :=
  match f with
  | 0 => some .gain
  | 1 => some .it
  | 2 => some .pers
  | 3 => some .intEn
  | 4 => some .sd
  | 5 => some .psmMode
  | 6 => some .psmEn
  | _ => none

/-- The namespace a field owns (10_state.md R26, 41_config_tables.md R111). -/
def fieldSpace (f : Field) : Option Namespace :=
  match f with
  | .gain => some .gain
  | .it => some .it
  | .pers => some .pers
  | .intEn => some .intEn
  | .sd => some .sd
  | .psmMode => some .psmMode
  | .psmEn => some .psmEn
  | .msb => none
  | .lsb => none
  | .intLow => none
  | .intHigh => none

/-- The mode of an identifier `m` (10_state.md R29). -/
def modeOfId (m : Nat) : Option Mode :=
  match m with
  | 0 => some .combined
  | 1 => some .singleTemperature
  | 2 => some .singlePressure
  | 3 => some .dormant63ms
  | 4 => some .dormant125ms
  | 5 => some .dormant1s
  | _ => none

/-- `MODE(m)`: the byte for the command register (10_state.md R29, 41_config_tables.md R118). -/
def modeByte (m : Mode) : Byte :=
  match m with
  | .combined => 0x0A#8
  | .singleTemperature => 0x08#8
  | .singlePressure => 0x09#8
  | .dormant63ms => 0x1B#8
  | .dormant125ms => 0x2B#8
  | .dormant1s => 0xFB#8

/-- `RES(r)` in lux per count, an exact rational, in the order the source lists them
(10_state.md R39). -/
def resolution (r : BitVec 2) : Rat :=
  match r.toNat with
  | 0 => 288 / 10000
  | 1 => 144 / 10000
  | 2 => 72 / 10000
  | _ => 36 / 10000

/-! ### The register map (20_memory.md R41, R42) -/

/-- A register of the ambient-light sensor, device 0x10 (20_memory.md R41). -/
def alsReg (r : BitVec 8) : BusAddr := ⟨0x10#7, r⟩

/-- A register of the pressure and temperature sensor, device 0x6D (20_memory.md R42). -/
def ptReg (r : BitVec 8) : BusAddr := ⟨0x6D#7, r⟩

/-- The declared length in bytes of a register, where the address is one of the thirteen
(20_memory.md R41, R42, R45, R55). -/
def registerLength (a : BusAddr) : Option Nat :=
  if a.device = 0x10#7 then
    match a.reg.toNat with
    | 0x00 => some 2
    | 0x01 => some 2
    | 0x02 => some 2
    | 0x03 => some 1
    | 0x04 => some 2
    | 0x05 => some 2
    | 0x06 => some 2
    | _ => none
  else if a.device = 0x6D#7 then
    match a.reg.toNat with
    | 0x06 => some 1
    | 0x07 => some 1
    | 0x08 => some 1
    | 0x09 => some 1
    | 0x0A => some 1
    | 0x30 => some 1
    | _ => none
  else none

/-- The registers of a composite pressure read, in order (20_memory.md R44, 43_environment_ops.md
R150). -/
def pressureRegs : List BusAddr := [ptReg 0x06#8, ptReg 0x07#8, ptReg 0x08#8]

/-- The registers of a composite temperature read, in order (20_memory.md R44, 43_environment_ops.md
R150). -/
def temperatureRegs : List BusAddr := [ptReg 0x09#8, ptReg 0x0A#8]

/-! ### Lookups in the open tables -/

/-- `OPT(F, o)` (10_state.md R27): only the rows of the namespace `F` are searched, and names are
compared exactly (41_config_tables.md R111, 30_encoding.md R84). -/
def optCode (t : Tables) (f : Namespace) (o : String) : Option Byte :=
  (t.optRows.find? (fun r => r.space == f && r.name == o)).map (fun r => r.code)

/-- The name that a slot index stands for in a namespace, if any (40_codec.md R98). -/
def optName (t : Tables) (f : Namespace) (index : BitVec 16) : Option String :=
  (t.optNames.find? (fun r => r.space == f && r.index == index)).map (fun r => r.name)

/-- `REFRESH(d)` (10_state.md R28). -/
def refreshPair (t : Tables) (d : String) : Option (BitVec 4 × BitVec 2) :=
  (t.refreshRows.find? (fun r => r.name == d)).map (fun r => (r.itCode, r.psmCode))

/-- The duration name that a slot index stands for, if any (41_config_tables.md R114). -/
def refreshName (t : Tables) (index : BitVec 16) : Option String :=
  (t.refreshNames.find? (fun r => r.index == index)).map (fun r => r.name)

/-! ### Reading the request record -/

/-- The raw input: the first `nbytes` of the three byte lines (10_state.md R30). -/
def PortInputs.raw (p : PortInputs) : List Byte :=
  [p.b0, p.b1, p.b2].take p.nbytes.toNat

/-- The operand slots in order. -/
def PortInputs.slots (p : PortInputs) : List Slot :=
  [p.slot0, p.slot1, p.slot2, p.slot3, p.slot4]

/-- The operand a present slot carries for field `f` (40_codec.md R98). A field with no namespace has
no names, so an index stands for none there (92_eei_decisions.md D8). -/
def slotOperand (t : Tables) (f : Field) (s : Slot) : Operand :=
  if s.named then
    match fieldSpace f with
    | none => .nameless
    | some space =>
      match optName t space s.val with
      | some o => .named o
      | none => .nameless
  else .code s.val.toNat

/-- ENCODE's `values` from the slots (40_codec.md R98): slot `k` feeds the `k`-th field; a present slot
with no field is an unknown field name (30_encoding.md R77); an absent slot is no entry. -/
def slotValues (t : Tables) (fs : List Field) (slots : List Slot) (k : Nat) : List (Key × Operand) :=
  match fs, slots with
  | _, [] => []
  | [], s :: rest =>
    if s.present then (.unknown k, .code s.val.toNat) :: slotValues t [] rest (k + 1)
    else slotValues t [] rest (k + 1)
  | f :: fs', s :: rest =>
    if s.present then (.field f, slotOperand t f s) :: slotValues t fs' rest (k + 1)
    else slotValues t fs' rest (k + 1)

/-- The field-output slots of a list of codes, slot `k` the `k`-th code (10_state.md R34). -/
def fieldOuts (codes : List Nat) : FieldOuts :=
  let at' (k : Nat) : Option Byte := (codes[k]?).map (BitVec.ofNat 8)
  ⟨at' 0, at' 1, at' 2, at' 3, at' 4⟩

end Sys2Proof.Machine
end

