-- ==== Sys2Proof/Machine/Ops.lean ====
section
/-! DEFINITION. The shared operations: answering a request, delivering an error (the only exception
there is), taking the next item, and the Transport primitives with the retry policy and the
exclusive scope. -/

namespace Sys2Proof.Machine

/-! ### Responses -/

/-- Gives a response (10_state.md R32). The request record does not survive the operation
(10_state.md R20, R36), so the request lines are idle again. -/
def State.respond (s : State) (r : Response) : State :=
  { s with port := PortInputs.idle, responses := s.responses ++ [r] }

/-- TAKING AN EXCEPTION, the one shared operation: delivery of an error (60_exceptions.md R170). The
operation ends with the response `Err(E)`; nothing is saved, no mode or mask changes and no handler
is entered, because there are none; control stays with the caller. There is no return from an error
(60_exceptions.md R171): the machine is ready for the next item. -/
def State.raise (s : State) (e : Error) : State :=
  s.respond (.err e)

/-- A RESET: the operation in progress, if there is one, ends with no response, and nothing else happens:
there is nothing to clear and nothing to set (70_reset_and_hazards.md R190, 92_eei_decisions.md D27). The
request record does not survive the operation, so the request lines are idle again (10_state.md R36). -/
def State.resetNow (s : State) : State :=
  { s with port := PortInputs.idle }

/-- The response that an operation's outcome is (10_state.md R32). -/
def responseOf (o : Except Error Result) : Response :=
  match o with
  | .ok r => .ok r
  | .error e => .err e

/-- Ends an operation with its outcome, `Ok(result)` or `Err(E)` (00_scope.md R13). -/
def State.answer (s : State) (o : Except Error Result) : State :=
  match o with
  | .ok r => s.respond (.ok r)
  | .error e => s.raise e

/-! ### Fetching -/

/-- The request lines an item drives: those of a request, also of one that a reset lands in; a register
word and a call drive none. -/
def Item.inputs (i : Item) : PortInputs :=
  match i with
  | .request _ r => r.inputs
  | .word _ _ _ => PortInputs.idle
  | .call _ _ => PortInputs.idle
  | .reset _ (some r) => r.inputs
  | .reset _ none => PortInputs.idle

/-- Takes an item from the queue: the rest stays pending and the item's lines stand at the port. -/
def State.accept (s : State) (i : Item) (rest : List Item) : State :=
  { s with pending := rest, port := i.inputs }

/-- What a word that does not decode gets (60_exceptions.md R165): `IllegalRequest` for a request code
that names no operation (30_encoding.md R79), `ProtocolError` for a malformed byte count
(20_memory.md R46). -/
def decodeFailure (e : DecodeError) : Error :=
  match e with
  | .illegalRequest => .illegalRequest
  | .malformedLength => .protocolError

/-! ### Transport (43_environment_ops.md R145, R146) -/

/-- Appends an event to the bus trace. -/
def State.event (s : State) (e : BusEvent) : State :=
  { s with bus := s.bus ++ [e] }

/-- Transport's next answer: the script's, and where it is used up a free value
(92_eei_decisions.md D32). -/
def nextAnswer (s : State) : Answer × State :=
  match s.script with
  | a :: rest => (a, { s with script := rest })
  | [] => (Config.transportAnswer s.asked, { s with asked := s.asked + 1 })

/-- How a read that asked for `n` bytes ends on an answer: bytes of another number are a malformed
byte count (60_exceptions.md R165). -/
def readEnd (n : Nat) (a : Answer) : Except Error (List Byte) × Xfer :=
  match a with
  | .bytes raw => if raw.length = n then (.ok raw, .done) else (.error .protocolError, .protocolError)
  | .busError => (.error .busError, .busError)
  | .protocolError => (.error .protocolError, .protocolError)

/-- `readRegister(device, register, n)`, one call (43_environment_ops.md R145). An unrecognized
register or a byte count other than the register's is `ProtocolError` at the Transport boundary
(90_conflicts.md C1, 20_memory.md R46; notes/assumptions/13.md). The call does not enter the exclusive
scope (DESIGN CHOICE, notes/assumptions/14.md). -/
def readRegister (a : BusAddr) (n : Nat) (s : State) : Except Error (List Byte) × State :=
  if registerLength a = some n then
    let (ans, s') := nextAnswer s
    let (r, x) := readEnd n ans
    (r, s'.event (.read a n x))
  else (.error .protocolError, s.event (.read a n .protocolError))

/-- `writeRegister(device, register, bytes)`, one attempt (43_environment_ops.md R146, R149): an
acknowledgement or `BusError` (92_eei_decisions.md D32; notes/assumptions/13.md). The call does not
enter the exclusive scope (DESIGN CHOICE, notes/assumptions/14.md). -/
def writeRegister (a : BusAddr) (raw : List Byte) (s : State) : Except Error Unit × State :=
  if registerLength a = some raw.length then
    let (ans, s') := nextAnswer s
    match ans with
    | .bytes _ => (.ok (), s'.event (.write a raw .done))
    | .busError => (.error .busError, s'.event (.write a raw .busError))
    | .protocolError => (.error .busError, s'.event (.write a raw .busError))
  else (.error .protocolError, s.event (.write a raw .protocolError))

/-! ### RetryPolicy (43_environment_ops.md R147) -/

/-- Counts down to the caller's cancellation signal. -/
def State.tick (s : State) : State :=
  { s with retry := { s.retry with cancelIn := s.retry.cancelIn.map (fun k => k - 1) } }

/-- Logs a failed attempt (43_environment_ops.md R147, 60_exceptions.md R172). -/
def State.logFailure (s : State) (a : BusAddr) : State :=
  { s with log := s.log ++ [a] }

/-- The retry loop with `k` attempts left (43_environment_ops.md R147): a transient `BusError` is
logged and tried again, a `ProtocolError` propagates at once, using up the attempts is
`RetryExhausted`, and a cancellation signal or deadline stops the loop (R152). -/
def retryLoop (a : BusAddr) (n : Nat) : Nat → State → Except Error (List Byte) × State
  | 0, s => (.error .retryExhausted, s)
  | k + 1, s =>
    if s.retry.cancelIn = some 0 then (.error .cancelled, s)
    else
      let (r, s') := readRegister a n s.tick
      match r with
      | .error .busError => retryLoop a n k (s'.logFailure a)
      | _ => (r, s')

/-- `readWithRetry`, at most `maxAttempts` attempts in total (43_environment_ops.md R147, R148). -/
def readWithRetry (a : BusAddr) (n : Nat) (s : State) : Except Error (List Byte) × State :=
  retryLoop a n s.retry.maxAttempts s

/-! ### Composite reads and the exclusive scope (43_environment_ops.md R150, R151) -/

/-- Enters the exclusive scope. -/
def State.enterScope (s : State) : State :=
  { s.event .enterScope with scope := true }

/-- Leaves the exclusive scope. -/
def State.leaveScope (s : State) : State :=
  { s.event .leaveScope with scope := false }

/-- The one-byte reads of a composite, in order; the first failure ends it with that error
(43_environment_ops.md R150). R150 leaves out the retry arguments of its reads: that each has the call's
own bound on attempts, and that one count down to the cancellation signal runs over all of them, is the
model's choice (DESIGN CHOICE, notes/assumptions/15.md). -/
def readEach (as : List BusAddr) (s : State) : Except Error (List Byte) × State :=
  match as with
  | [] => (.ok [], s)
  | a :: rest =>
    match readWithRetry a 1 s with
    | (.error e, s1) => (.error e, s1)
    | (.ok raw, s1) =>
      match readEach rest s1 with
      | (.error e, s2) => (.error e, s2)
      | (.ok more, s2) => (.ok (raw ++ more), s2)

/-- A composite read under one exclusive scope, which is left on every path
(43_environment_ops.md R150, R151). 20_memory.md R52 leaves open the call by which the scope is taken and
released: that it is no call of its own, and that the scope is taken here and with a composite word
alone, implicitly, is the model's choice (DESIGN CHOICE, notes/assumptions/14.md). -/
def readComposite (as : List BusAddr) (s : State) : Except Error (List Byte) × State :=
  let (r, s') := readEach as s.enterScope
  (r, s'.leaveScope)

/-! ### Turns of several callers (20_memory.md R50) -/

/-- The turn of the caller that reads next: with none left, all its attempts. -/
def State.turn (s : State) : Turn :=
  match s.turns with
  | [] => ⟨s.retry.maxAttempts, 0⟩
  | t :: _ => t

/-- The turn is taken. -/
def State.takeTurn (s : State) : State :=
  { s with turns := s.turns.tail }

/-- The waiting items that go ahead of an item of the caller `p`: the first `n` at most, and none from
that caller's next one on, because the program order of one caller's bus accesses is kept
(92_eei_decisions.md D24). -/
def itemsAhead (p n : Nat) (waiting : List Item) : List Item :=
  (waiting.take n).takeWhile (fun j => decide (j.caller ≠ p))

/-- Waiting items of other callers, `n` at most, go ahead of the item `i`. -/
def State.overtaken (s : State) (n : Nat) (i : Item) : State :=
  { s with
    port := PortInputs.idle
    pending := itemsAhead i.caller n s.pending ++
      i :: s.pending.drop (itemsAhead i.caller n s.pending).length }

/-- The call `c` reads `n` bytes at `a` with the retry policy, outside an exclusive scope, and ends with
`finish` of them. Other callers may get in between two of its attempts, at every point and in every
number, and the caller's own later items may not (20_memory.md R50, 92_eei_decisions.md D24): when the
turn's attempts are used up and some are left, the call waits for its next turn, with the attempts that
are left. -/
def State.readInTurns (s : State) (a : BusAddr) (n : Nat) (c : Call)
    (finish : List Byte → Except Error Result) : State :=
  let (r, s') := retryLoop a n (min s.turn.attempts s.retry.maxAttempts) s.takeTurn
  match r, decide (s.turn.attempts < s.retry.maxAttempts) with
  | .error .retryExhausted, true =>
    s'.overtaken s.turn.ahead
      (.call ⟨s.retry.maxAttempts - s.turn.attempts, s'.retry.cancelIn, s'.retry.caller⟩ c)
  | r, _ => s'.answer (r.bind finish)

/-! ### Words transferred on the bus -/

/-- Runs `k`, an access to the bus, unless the exclusive scope is held: a scope that is not released
blocks every later bus user (70_reset_and_hazards.md R193). Single-register accesses do not enter the
scope, but a held one blocks them; the spec leaves open whether they take it (20_memory.md R52). The scope
is looked at once, before everything else `k` does: an access that would end before it reaches the bus (a
read already cancelled, an address that is no register) is blocked too (both DESIGN CHOICE,
notes/assumptions/14.md). -/
def State.unlessScope (s : State) (k : Host.Outcome State Fault Refusal) :
    Host.Outcome State Fault Refusal :=
  if s.scope then .fault .scopeHeld else k

/-- A write of `raw` to `a` and its response: an acknowledgement or the error
(43_environment_ops.md R157). -/
def State.writeAnd (s : State) (a : BusAddr) (raw : List Byte) : State :=
  match writeRegister a raw s with
  | (.ok (), s') => s'.respond (.ok .ack)
  | (.error e, s') => s'.raise e

/-- The same as an access to the bus: blocked by a held scope. -/
def State.busWrite (s : State) (a : BusAddr) (raw : List Byte) : Host.Outcome State Fault Refusal :=
  s.unlessScope (.next (s.writeAnd a raw))

/-- The trace of a word that Transport has delivered: one successful read of each register. -/
def State.delivered (s : State) (as : List BusAddr) (n : Nat) : State :=
  { s with bus := s.bus ++ as.map (fun a => .read a n .done) }

/-- The same for a composite word: the reads stand inside one exclusive scope
(43_environment_ops.md R150, R151), which the word takes and releases implicitly (20_memory.md R52; DESIGN
CHOICE, notes/assumptions/14.md). -/
def State.deliveredComposite (s : State) (as : List BusAddr) : State :=
  ((s.enterScope).delivered as 1).leaveScope

end Sys2Proof.Machine
end

