-- ==== Sys2Proof/Machine/Codec.lean ====
section
/-! DEFINITION. The register codec: ENCODE, UNPACK, DECFLAGS (40_codec.md). Each is given first at the
abstract level (00_scope.md R15), then bound to the request record as the instruction's meaning. -/

namespace Sys2Proof.Machine

/-! ### ENCODE (40_codec.md R90 to R93, R98) -/

/-- The range law: a code is legal for a field of width `w` exactly when `0 <= c < 2^w`, and is
never wrapped, masked or clamped (40_codec.md R91). -/
def checkRange (w : Nat) (c : Int) : Except Error Nat :=
  if 0 ≤ c ∧ c < 2 ^ w then .ok c.toNat else .error .configurationError

/-- The code of field `f`: missing, then name resolution in the field's own namespace, then range,
each failure `ConfigurationError` (40_codec.md R90, R92; 41_config_tables.md R111). -/
def resolveField (t : Tables) (vals : List (Key × Operand)) (f : Field) (w : Nat) :
    Except Error Nat :=
  match vals.lookup (.field f) with
  | none => .error .configurationError
  | some (.code n) => checkRange w n
  | some (.named o) =>
    match fieldSpace f with
    | none => .error .configurationError
    | some space =>
      match optCode t space o with
      | none => .error .configurationError
      | some c => checkRange w c.toNat
  | some .nameless => .error .configurationError

/-- Concatenates the items' codes below `v`, most significant first; a filler contributes 0
(30_encoding.md R70, R73). -/
def assemble (t : Tables) (vals : List (Key × Operand)) : List LayoutItem → Nat → Except Error Nat
  | [], v => .ok v
  | .filler w :: rest, v => assemble t vals rest (v * 2 ^ w)
  | .field f w :: rest, v =>
    match resolveField t vals f w with
    | .error e => .error e
    | .ok c => assemble t vals rest (v * 2 ^ w + c)

/-- Every key of `values` is a named field of the layout (40_codec.md R90). -/
def keysKnown (fs : List Field) (vals : List (Key × Operand)) : Bool :=
  vals.all (fun kv => fs.any (fun f => decide (kv.1 = .field f)))

/-- `encode(layout, values)` for a declared layout (40_codec.md R90): unknown names first, then the
fields in layout order, then the byte split (30_encoding.md R71). -/
def encodeLayout (t : Tables) (l : Layout) (vals : List (Key × Operand)) : Except Error (List Byte) :=
  if keysKnown (layoutFields l) vals then
    (assemble t vals (layoutItems l) 0).map (bytesOf (layoutLen l))
  else .error .configurationError

/-- `encode(layout, values)` (40_codec.md R90): an identifier with no layout first. -/
def encodeOp (t : Tables) (l : Nat) (vals : List (Key × Operand)) : Except Error (List Byte) :=
  match layoutOfId l with
  | none => .error .unknownRegisterError
  | some lay => encodeLayout t lay vals

/-- ENCODE's `values` at the port (40_codec.md R98). -/
def portValues (t : Tables) (l : Nat) (p : PortInputs) : List (Key × Operand) :=
  match layoutOfId l with
  | none => []
  | some lay => slotValues t (layoutFields lay) p.slots 0

/-- ENCODE at the port, as a function of the request (40_codec.md R98). -/
def encodeRsp (t : Tables) (l : LayoutSel) (p : PortInputs) : Except Error Result :=
  (encodeOp t l.bits.toNat (portValues t l.bits.toNat p)).map .bytes

/-- The meaning of ENCODE. -/
def execEncode (l : LayoutSel) (s : State) : Host.Outcome State Fault Refusal :=
  .next (s.answer (encodeRsp s.tables l s.port))

/-! ### UNPACK (40_codec.md R94, R99) -/

/-- The named fields of some items with their widths and codes in the value `v`: an item lies just
above the items after it, and filler bits are ignored (30_encoding.md R72, R73). -/
def unpackItems (v : Nat) (is : List LayoutItem) : List (Field × Nat) :=
  match is with
  | [] => []
  | .filler _ :: rest => unpackItems v rest
  | .field f w :: rest => (f, v / 2 ^ itemsWidth rest % 2 ^ w) :: unpackItems v rest

/-- `UNPACK(L, raw)` (40_codec.md R94): the layout first, then the byte count. -/
def unpackOp (l : Nat) (raw : List Byte) : Except Error (List (Field × Nat)) :=
  match layoutOfId l with
  | none => .error .unknownRegisterError
  | some lay =>
    if raw.length = layoutLen lay then .ok (unpackItems (be raw) (layoutItems lay))
    else .error .protocolError

/-- UNPACK at the port, as a function of the request (40_codec.md R99). -/
def unpackRsp (l : LayoutSel) (p : PortInputs) : Except Error Result :=
  (unpackOp l.bits.toNat p.raw).map (fun m => .fields (fieldOuts (m.map (fun e => e.2))))

/-- The meaning of UNPACK. -/
def execUnpack (l : LayoutSel) (s : State) : Host.Outcome State Fault Refusal :=
  .next (s.answer (unpackRsp l s.port))

/-! ### DECFLAGS (40_codec.md R96, R99) -/

/-- The single-bit named fields of some items as booleans (40_codec.md R96). -/
def flagItems (v : Nat) (is : List LayoutItem) : List (Field × Bool) :=
  match is with
  | [] => []
  | .filler _ :: rest => flagItems v rest
  | .field f w :: rest =>
    if w = 1 then (f, decide (v / 2 ^ itemsWidth rest % 2 = 1)) :: flagItems v rest
    else flagItems v rest

/-- `decodeFlags(layout, raw)` (40_codec.md R96). -/
def flagsOp (l : Nat) (raw : List Byte) : Except Error (List (Field × Bool)) :=
  match layoutOfId l with
  | none => .error .unknownRegisterError
  | some lay =>
    if raw.length = layoutLen lay then .ok (flagItems (be raw) (layoutItems lay))
    else .error .protocolError

/-- DECFLAGS at the port, as a function of the request: 1 for true, 0 for false (40_codec.md R99). -/
def decflagsRsp (l : LayoutSel) (p : PortInputs) : Except Error Result :=
  (flagsOp l.bits.toNat p.raw).map
    (fun m => .fields (fieldOuts (m.map (fun e => if e.2 then 1 else 0))))

/-- The meaning of DECFLAGS. -/
def execDecflags (l : LayoutSel) (s : State) : Host.Outcome State Fault Refusal :=
  .next (s.answer (decflagsRsp l s.port))

end Sys2Proof.Machine
end

