-- ==== Sys2Proof/Machine/ConfigTables.lean ====
section
/-! DEFINITION. The table operations: LOOKUP, LKREFRESH, MODECMD (41_config_tables.md). -/

namespace Sys2Proof.Machine

/-- `LOOKUP(F, o)` (41_config_tables.md R110); `none` where `F` names no namespace. -/
def lookupOp (t : Tables) (space : Option Namespace) (o : String) : Except Error Byte :=
  match space with
  | none => .error .unknownOptionError
  | some f =>
    match optCode t f o with
    | some c => .ok c
    | none => .error .unknownOptionError

/-- `lookup(fieldName, optionName)` of the abstract level (41_config_tables.md R110): a field with no
namespace, such as MSB, has no registered name, and nor has a name that no layout declares
(92_eei_decisions.md D31). -/
def lookupField (t : Tables) (k : Key) (o : String) : Except Error Byte :=
  match k with
  | .field f => lookupOp t (fieldSpace f) o
  | .unknown _ => lookupOp t none o

/-- LOOKUP at the port: a field id that names no namespace and an index that stands for no name are
unknown options (41_config_tables.md R110, 92_eei_decisions.md D31). Only `slot[0].val` is read
(30_encoding.md R77). -/
def lookupRsp (t : Tables) (f : FieldSel) (p : PortInputs) : Except Error Result :=
  match namespaceOfId f.bits.toNat with
  | none => .error .unknownOptionError
  | some space =>
    match optName t space p.slot0.val with
    | none => .error .unknownOptionError
    | some o => (lookupOp t (some space) o).map (fun c => .fields (fieldOuts [c.toNat]))

/-- The meaning of LOOKUP. -/
def execLookup (f : FieldSel) (s : State) : Host.Outcome State Fault Refusal :=
  .next (s.answer (lookupRsp s.tables f s.port))

/-- `lookupRefresh(duration)` (41_config_tables.md R114). -/
def refreshOp (t : Tables) (d : String) : Except Error (BitVec 4 × BitVec 2) :=
  match refreshPair t d with
  | some pair => .ok pair
  | none => .error .unsupportedRefreshTimeError

/-- LKREFRESH at the port: `fo[0]` is the itCode and `fo[1]` the psmCode (41_config_tables.md R114). -/
def lkrefreshRsp (t : Tables) (p : PortInputs) : Except Error Result :=
  match refreshName t p.slot0.val with
  | none => .error .unsupportedRefreshTimeError
  | some d =>
    (refreshOp t d).map (fun pair => .fields (fieldOuts [pair.1.toNat, pair.2.toNat]))

/-- The meaning of LKREFRESH; the selector is a don't-care (30_encoding.md R76). -/
def execLkrefresh (_x : BitVec 4) (s : State) : Host.Outcome State Fault Refusal :=
  .next (s.answer (lkrefreshRsp s.tables s.port))

/-- `MODECMD(m)`: one command byte (41_config_tables.md R117). -/
def modecmdOp (m : Nat) : Except Error (List Byte) :=
  match modeOfId m with
  | some mode => .ok [modeByte mode]
  | none => .error .configurationError

/-- MODECMD at the port. -/
def modecmdRsp (m : ModeSel) : Except Error Result :=
  (modecmdOp m.bits.toNat).map .bytes

/-- The meaning of MODECMD. -/
def execModecmd (m : ModeSel) (s : State) : Host.Outcome State Fault Refusal :=
  .next (s.answer (modecmdRsp m))

end Sys2Proof.Machine
end

