-- ==== Sys2Proof/Machine/Measurement.lean ====
section
/-! DEFINITION. The measurement decoder: DECP24, DECT16, DECU16, TOLUX (42_measurement_decoder.md),
and the source's decoders with a scale, at the abstract level. -/

namespace Sys2Proof.Machine

/-- `sext_N(v)`: two's-complement reconstruction by subtracting `2^N` when the sign bit is set
(42_measurement_decoder.md R129; never the flawed formula, R133). -/
def sext (n v : Nat) : Int :=
  if 2 ^ (n - 1) ≤ v then (v : Int) - 2 ^ n else v

/-- `tc_32(s)`: the 32-bit two's-complement pattern of a signed integer (00_scope.md R11). -/
def tc32 (i : Int) : BitVec 32 :=
  BitVec.ofInt 32 i

/-- `DECP24(raw)`: the signed integer of three bytes (42_measurement_decoder.md R125). -/
def decp24Op (raw : List Byte) : Except Error Int :=
  match raw with
  | [b0, b1, b2] => .ok (sext 24 (b0.toNat * 2 ^ 16 + b1.toNat * 2 ^ 8 + b2.toNat))
  | _ => .error .protocolError

/-- `DECT16(raw)`: the signed integer of two bytes (42_measurement_decoder.md R127). -/
def dect16Op (raw : List Byte) : Except Error Int :=
  match raw with
  | [b0, b1] => .ok (sext 16 (b0.toNat * 2 ^ 8 + b1.toNat))
  | _ => .error .protocolError

/-- `DECU16(raw)`: the unsigned count of two bytes (42_measurement_decoder.md R128). -/
def decu16Op (raw : List Byte) : Except Error Nat :=
  match raw with
  | [b0, b1] => .ok (b0.toNat * 2 ^ 8 + b1.toNat)
  | _ => .error .protocolError

/-- `TOLUX(count, r)` in lux, an exact rational (42_measurement_decoder.md R134). -/
def toluxOp (count : Nat) (r : BitVec 2) : Rat :=
  count * resolution r

/-- DECP24 at the port: the signed integer in 32 bits (10_state.md R33). -/
def decp24Rsp (p : PortInputs) : Except Error Result :=
  (decp24Op p.raw).map (fun i => .res (tc32 i))

/-- DECT16 at the port: the signed integer in 32 bits (10_state.md R33). -/
def dect16Rsp (p : PortInputs) : Except Error Result :=
  (dect16Op p.raw).map (fun i => .res (tc32 i))

/-- DECU16 at the port: the count zero-extended to 32 bits (10_state.md R33). -/
def decu16Rsp (p : PortInputs) : Except Error Result :=
  (decu16Op p.raw).map (fun n => .res (BitVec.ofNat 32 n))

/-- TOLUX at the port, in units of 0.0001 lux; only `slot[0].val` is read
(42_measurement_decoder.md R134). -/
def toluxRsp (r : BitVec 2) (p : PortInputs) : Except Error Result :=
  .ok (.res (BitVec.ofNat 32 (p.slot0.val.toNat * (288 >>> r.toNat))))

/-- The meaning of DECP24; the selector is a don't-care (30_encoding.md R76). -/
def execDecp24 (_x : BitVec 4) (s : State) : Host.Outcome State Fault Refusal :=
  .next (s.answer (decp24Rsp s.port))

/-- The meaning of DECT16; the selector is a don't-care (30_encoding.md R76). -/
def execDect16 (_x : BitVec 4) (s : State) : Host.Outcome State Fault Refusal :=
  .next (s.answer (dect16Rsp s.port))

/-- The meaning of DECU16; the selector is a don't-care (30_encoding.md R76). -/
def execDecu16 (_x : BitVec 4) (s : State) : Host.Outcome State Fault Refusal :=
  .next (s.answer (decu16Rsp s.port))

/-- The meaning of TOLUX; the upper selector bits are a don't-care (30_encoding.md R76). -/
def execTolux (_x r : BitVec 2) (s : State) : Host.Outcome State Fault Refusal :=
  .next (s.answer (toluxRsp r s.port))

/-- TOLUX as a float: FLOAT_FMT rounds the resolution, and then the product
(42_measurement_decoder.md R135; 92_eei_decisions.md D17). Both images are rationals (DESIGN CHOICE,
notes/assumptions/16.md). -/
def toluxFloat (count : Nat) (r : BitVec 2) : Rat :=
  Config.floatFmt (count * Config.floatFmt (resolution r))

/-! ### The source's decoders with a scale (42_measurement_decoder.md R126, R131) -/

/-- The result, rounded by ROUND_FN where `round` is given (42_measurement_decoder.md R131). -/
def rounded (round : Option Int) (q : Rat) : Rat :=
  match round with
  | none => q
  | some places => Config.roundFn q places

/-- `decodePressure(raw, scale, round?)`: a scale of 0 or less is outside the domain and is refused
(42_measurement_decoder.md R126). -/
def decodePressure (raw : List Byte) (scale : Int) (round : Option Int) :
    Host.Outcome (Except Error Rat) Fault Refusal :=
  if scale ≤ 0 then .refused .scaleOutsideDomain
  else .next ((decp24Op raw).map (fun i : Int => rounded round ((i : Rat) / (scale : Rat))))

/-- `decodeTemperature(raw, scale, round?)` (42_measurement_decoder.md R126, R127). -/
def decodeTemperature (raw : List Byte) (scale : Int) (round : Option Int) :
    Host.Outcome (Except Error Rat) Fault Refusal :=
  if scale ≤ 0 then .refused .scaleOutsideDomain
  else .next ((dect16Op raw).map (fun i : Int => rounded round ((i : Rat) / (scale : Rat))))

/-- The float of a reading of the value `q`: at the default scale, unrounded, `q` itself, because no
rounding occurs there, and FLOAT_FMT matters for other scales (42_measurement_decoder.md R130). Of a
value that ROUND_FN has rounded the spec does not say how it becomes a float: FLOAT_FMT, uninterpreted
(DESIGN CHOICE, notes/assumptions/16.md). That FLOAT_FMT's image is a rational, no NaN and no infinity, at
the other scales too is the model's choice (DESIGN CHOICE, the same entry). -/
def readingFloat (default scale : Int) (round : Option Int) (q : Rat) : Rat :=
  if scale = default ∧ round = none then q else Config.floatFmt q

/-- The value of a reading, exact and as a float. -/
def reading (default scale : Int) (round : Option Int) (q : Rat) : Result :=
  .value q (readingFloat default scale round q)

end Sys2Proof.Machine
end

