-- ==== Sys2Proof/Machine/Formats.lean ====
section
/-! DEFINITION. The nine register formats and the six command bytes of the opcode table, as words that
travel on the bus (notes/assumptions/6.md, 7.md, 8.md). A word of a register that the consumer calls
write is written to it (43_environment_ops.md R157); a word of a register they read has been
delivered by Transport and is decoded by the operation of its format (R153 to R156, R161). A held
exclusive scope blocks them all (70_reset_and_hazards.md R193). -/

namespace Sys2Proof.Machine

/-- Encodes and, only with the whole buffer in hand, writes in one attempt; if ENCODE fails nothing
is written (43_environment_ops.md R157, R159). -/
def State.encodeAndWrite (s : State) (l : Nat) (vals : List (Key × Operand)) (a : BusAddr) :
    Host.Outcome State Fault Refusal :=
  match encodeOp s.tables l vals with
  | .ok raw => s.busWrite a raw
  | .error e => .next (s.raise e)

/-- The operand that is the code of some bits. -/
def codeOf {w : Nat} (v : BitVec w) : Operand := .code v.toNat

/-- fmt.ALS_CONF (30_encoding.md R61): the word with these field codes is written to ALS register
0x00. -/
def execFmtAlsConf (gain : BitVec 2) (it : BitVec 4) (pers : BitVec 2) (intEn sd : BitVec 1)
    (s : State) : Host.Outcome State Fault Refusal :=
  s.encodeAndWrite 0x0
    [(.field .gain, codeOf gain), (.field .it, codeOf it), (.field .pers, codeOf pers),
     (.field .intEn, codeOf intEn), (.field .sd, codeOf sd)] (alsReg 0x00#8)

/-- fmt.ALS_WH (30_encoding.md R62): the high-threshold count is written to ALS register 0x01. -/
def execFmtAlsWh (msb lsb : Byte) (s : State) : Host.Outcome State Fault Refusal :=
  s.encodeAndWrite 0x1 [(.field .msb, codeOf msb), (.field .lsb, codeOf lsb)] (alsReg 0x01#8)

/-- fmt.ALS_WL (30_encoding.md R63): the low-threshold count is written to ALS register 0x02. -/
def execFmtAlsWl (msb lsb : Byte) (s : State) : Host.Outcome State Fault Refusal :=
  s.encodeAndWrite 0x2 [(.field .msb, codeOf msb), (.field .lsb, codeOf lsb)] (alsReg 0x02#8)

/-- fmt.PSM (30_encoding.md R64): the word is written to ALS register 0x03. -/
def execFmtPsm (mode : BitVec 2) (en : BitVec 1) (s : State) : Host.Outcome State Fault Refusal :=
  s.encodeAndWrite 0x3 [(.field .psmMode, codeOf mode), (.field .psmEn, codeOf en)]
    (alsReg 0x03#8)

/-- fmt.ALS_INT (30_encoding.md R65): the word read from ALS register 0x06 is decoded to its two
flags (43_environment_ops.md R161). -/
def execFmtAlsInt (low high : BitVec 1) (s : State) : Host.Outcome State Fault Refusal :=
  s.unlessScope (.next ((s.delivered [alsReg 0x06#8] 2).answer
    ((flagsOp 0x6 (split16 (low ++ high ++ 0#14))).map
      (fun m => .fields (fieldOuts (m.map (fun e => if e.2 then 1 else 0)))))))

/-- fmt.CMD (30_encoding.md R66): the byte is written, unchecked, to PT register 0x30
(43_environment_ops.md R157). -/
def execFmtCmd (command : Byte) (s : State) : Host.Outcome State Fault Refusal :=
  s.busWrite (ptReg 0x30#8) [command]

/-- fmt.P24 (30_encoding.md R67): the composite word read from PT registers 0x06 to 0x08 is decoded
by DECP24 (43_environment_ops.md R153). -/
def execFmtP24 (v : BitVec 24) (s : State) : Host.Outcome State Fault Refusal :=
  s.unlessScope (.next ((s.deliveredComposite pressureRegs).answer
    ((decp24Op (split24 v)).map (fun i => .res (tc32 i)))))

/-- fmt.T16 (30_encoding.md R68): the composite word read from PT registers 0x09 and 0x0A is decoded
by DECT16 (43_environment_ops.md R154). -/
def execFmtT16 (v : BitVec 16) (s : State) : Host.Outcome State Fault Refusal :=
  s.unlessScope (.next ((s.deliveredComposite temperatureRegs).answer
    ((dect16Op (split16 v)).map (fun i => .res (tc32 i)))))

/-- fmt.U16 (30_encoding.md R69): the count read from ALS register 0x04 (ambient) or 0x05 (white) is
decoded by DECU16 (43_environment_ops.md R155, R156). -/
def execFmtU16 (white : Bool) (v : BitVec 16) (s : State) : Host.Outcome State Fault Refusal :=
  s.unlessScope (.next ((s.delivered [alsReg (if white then 0x05#8 else 0x04#8)] 2).answer
    ((decu16Op (split16 v)).map (fun n => .res (BitVec.ofNat 32 n)))))

/-! ### The six command bytes (41_config_tables.md R118): written to PT register 0x30 -/

/-- The command byte of a mode is written to the command register (43_environment_ops.md R157
`setMode`). Nothing is concluded of the sensor's mode (41_config_tables.md R119). -/
def State.command (s : State) (m : Mode) : Host.Outcome State Fault Refusal :=
  s.busWrite (ptReg 0x30#8) [modeByte m]

/-- cmd.combined. -/
def execCmdCombined (s : State) : Host.Outcome State Fault Refusal :=
  s.command .combined

/-- cmd.single-temperature. -/
def execCmdSingleTemperature (s : State) : Host.Outcome State Fault Refusal :=
  s.command .singleTemperature

/-- cmd.single-pressure. -/
def execCmdSinglePressure (s : State) : Host.Outcome State Fault Refusal :=
  s.command .singlePressure

/-- cmd.dormant-63.5ms. -/
def execCmdDormant63ms (s : State) : Host.Outcome State Fault Refusal :=
  s.command .dormant63ms

/-- cmd.dormant-125ms. -/
def execCmdDormant125ms (s : State) : Host.Outcome State Fault Refusal :=
  s.command .dormant125ms

/-- cmd.dormant-1s. -/
def execCmdDormant1s (s : State) : Host.Outcome State Fault Refusal :=
  s.command .dormant1s

end Sys2Proof.Machine
end

