-- ==== Sys2Proof/Machine/Dispatch.lean ====
section
/-! DEFINITION. One arm per instruction of the opcode table. -/

namespace Sys2Proof.Machine

def exec (i : Instr) (s : State) : Host.Outcome State Fault Refusal :=
  match i with
  -- the register codec
  | .encode l => Sys2Proof.Machine.execEncode l s
  | .unpack l => Sys2Proof.Machine.execUnpack l s
  | .decflags l => Sys2Proof.Machine.execDecflags l s
  -- the measurement decoder
  | .decp24 x => Sys2Proof.Machine.execDecp24 x s
  | .dect16 x => Sys2Proof.Machine.execDect16 x s
  | .decu16 x => Sys2Proof.Machine.execDecu16 x s
  | .tolux x r => Sys2Proof.Machine.execTolux x r s
  -- the table operations
  | .lookup f => Sys2Proof.Machine.execLookup f s
  | .lkrefresh x => Sys2Proof.Machine.execLkrefresh x s
  | .modecmd m => Sys2Proof.Machine.execModecmd m s
  -- the register formats
  | .fmtAlsConf gain it pers intEn sd => Sys2Proof.Machine.execFmtAlsConf gain it pers intEn sd s
  | .fmtAlsWh msb lsb => Sys2Proof.Machine.execFmtAlsWh msb lsb s
  | .fmtAlsWl msb lsb => Sys2Proof.Machine.execFmtAlsWl msb lsb s
  | .fmtPsm mode en => Sys2Proof.Machine.execFmtPsm mode en s
  | .fmtAlsInt low high => Sys2Proof.Machine.execFmtAlsInt low high s
  | .fmtCmd command => Sys2Proof.Machine.execFmtCmd command s
  | .fmtP24 v => Sys2Proof.Machine.execFmtP24 v s
  | .fmtT16 v => Sys2Proof.Machine.execFmtT16 v s
  | .fmtU16 white v => Sys2Proof.Machine.execFmtU16 white v s
  -- the command bytes
  | .cmdCombined => Sys2Proof.Machine.execCmdCombined s
  | .cmdSingleTemperature => Sys2Proof.Machine.execCmdSingleTemperature s
  | .cmdSinglePressure => Sys2Proof.Machine.execCmdSinglePressure s
  | .cmdDormant63ms => Sys2Proof.Machine.execCmdDormant63ms s
  | .cmdDormant125ms => Sys2Proof.Machine.execCmdDormant125ms s
  | .cmdDormant1s => Sys2Proof.Machine.execCmdDormant1s s

end Sys2Proof.Machine
end

