-- ==== Sys2Proof/Machine/Environment.lean ====
section
/-! DEFINITION. The eight consumer calls (43_environment_ops.md R153 to R158): pseudo-operations, each
a fixed sequence of Transport calls and block operations; and a driver's own register reads and write.
They are environment rules; no instruction of the opcode table is one. -/

namespace Sys2Proof.Machine

/-- Runs `k` unless the caller's bound on attempts is below 1, a broken precondition
(43_environment_ops.md R148, notes/assumptions/15.md). -/
def State.ifAttempts (s : State) (k : Host.Outcome State Fault Refusal) :
    Host.Outcome State Fault Refusal :=
  if s.retry.maxAttempts = 0 then .refused .attemptsOutsideDomain else k

/-- Ends a call that read a composite: the read's error, or the decoded physical value. -/
def endReading (r : Except Error (List Byte)) (s : State)
    (dec : List Byte → Host.Outcome (Except Error Rat) Fault Refusal) (result : Rat → Result) :
    Host.Outcome State Fault Refusal :=
  match r with
  | .error e => .next (s.raise e)
  | .ok raw =>
    match dec raw with
    | .next o => .next (s.answer (o.map result))
    | .fault f => .fault f
    | .refused f => .refused f

/-- `getPressure(round?)` (43_environment_ops.md R153). -/
def callGetPressure (round : Option Int) (s : State) : Host.Outcome State Fault Refusal :=
  s.ifAttempts (s.unlessScope
    (let (r, s') := readComposite pressureRegs s
     endReading r s' (fun raw => decodePressure raw 4096 round) (reading 4096 4096 round)))

/-- `getTemperature(round?)` (43_environment_ops.md R154). -/
def callGetTemperature (round : Option Int) (s : State) : Host.Outcome State Fault Refusal :=
  s.ifAttempts (s.unlessScope
    (let (r, s') := readComposite temperatureRegs s
     endReading r s' (fun raw => decodeTemperature raw 256 round) (reading 256 256 round)))

/-- `getAmbientLux()`, with the resolution the caller holds (43_environment_ops.md R155). A held scope
blocks it before a cancellation signal is looked at (DESIGN CHOICE, notes/assumptions/14.md). -/
def callGetAmbientLux (resolution : BitVec 2) (s : State) : Host.Outcome State Fault Refusal :=
  s.ifAttempts (s.unlessScope (.next
    (s.readInTurns (alsReg 0x04#8) 2 (.getAmbientLux resolution)
      (fun raw => (decu16Op raw).map
        (fun n => .value (toluxOp n resolution) (toluxFloat n resolution))))))

/-- `getWhiteCount()` (43_environment_ops.md R156). A held scope blocks it before a cancellation signal is
looked at (DESIGN CHOICE, notes/assumptions/14.md). -/
def callGetWhiteCount (s : State) : Host.Outcome State Fault Refusal :=
  s.ifAttempts (s.unlessScope (.next
    (s.readInTurns (alsReg 0x05#8) 2 .getWhiteCount (fun raw => (decu16Op raw).map .count))))

/-- A driver's own read of a register, one call (43_environment_ops.md R145): outside the retry policy,
so a `BusError` is neither tried again nor logged (DESIGN CHOICE, notes/assumptions/25.md). -/
def callReadRegister (a : BusAddr) (length : Nat) (s : State) : Host.Outcome State Fault Refusal :=
  s.unlessScope (.next
    (let (r, s') := readRegister a length s
     s'.answer (r.map .bytes)))

/-- A driver's own read of a register with the retry policy (43_environment_ops.md R147, R161). A held
scope blocks it before a cancellation signal is looked at (DESIGN CHOICE, notes/assumptions/14.md). -/
def callReadWithRetry (a : BusAddr) (length : Nat) (s : State) : Host.Outcome State Fault Refusal :=
  s.ifAttempts (s.unlessScope (.next
    (s.readInTurns a length (.readWithRetry a length) (fun raw => .ok (.bytes raw)))))

/-- The expansion of each consumer call (43_environment_ops.md R153 to R157), and a driver's own
register reads and single-attempt write (R145 to R147, R161). -/
def runCall (c : Call) (s : State) : Host.Outcome State Fault Refusal :=
  match c with
  | .getPressure round => callGetPressure round s
  | .getTemperature round => callGetTemperature round s
  | .getAmbientLux resolution => callGetAmbientLux resolution s
  | .getWhiteCount => callGetWhiteCount s
  | .setConfig opts => s.encodeAndWrite 0x0 opts (alsReg 0x00#8)
  | .setPowerSaveMode opts => s.encodeAndWrite 0x3 opts (alsReg 0x03#8)
  | .setThresholdWindow high msb lsb =>
    s.encodeAndWrite (if high then 0x1 else 0x2)
      [(.field .msb, .code msb), (.field .lsb, .code lsb)]
      (alsReg (if high then 0x01#8 else 0x02#8))
  | .setMode commandCode => s.busWrite (ptReg 0x30#8) [commandCode]
  | .readRegister a length => callReadRegister a length s
  | .readWithRetry a length => callReadWithRetry a length s
  | .writeRegister a raw => s.busWrite a raw

end Sys2Proof.Machine
end

