-- ==== Sys2Proof/Machine/Fetch.lean ====
section
/-! DEFINITION. Running one item of the queue: decoding its word and running the instruction, or
running the consumer call; and the item a bare table word stands for. -/

namespace Sys2Proof.Machine

/-- Decodes a word of a source and runs its instruction; a word that does not decode gets its error
(30_encoding.md R79, 20_memory.md R46). -/
def runWord (src : Source) (raw : List Byte) (s : State) : Host.Outcome State Fault Refusal :=
  match decode src raw with
  | .ok i => exec i s
  | .error e => .next (s.raise (decodeFailure e))

/-- Runs an accepted item. -/
def runItem (i : Item) (s : State) : Host.Outcome State Fault Refusal :=
  match i with
  | .request _ r => runWord .requestPort [r.code] s
  | .word _ r raw => runWord (.register r) raw s
  | .call args c => runCall c { s with retry := args }
  | .reset _ _ => .next s.resetNow

/-- Serves the oldest pending item. With nothing pending the block waits: nothing runs in the
background (00_scope.md R14; notes/assumptions/5.md). -/
def serve (s : State) : Host.Outcome State Fault Refusal :=
  match s.pending with
  | [] => .next s
  | i :: rest => runItem i (s.accept i rest)

/-- The item that a bare table word stands for: a request with idle lines, or a register word
(notes/assumptions/10.md, 11.md), presented by caller 0. -/
def tableItem (nbits w : Nat) : Option Item :=
  match tableSource nbits w with
  | none => none
  | some .requestPort => some (.request 0 ⟨BitVec.ofNat 8 w, PortInputs.idle⟩)
  | some (.register r) => some (.word 0 r (bytesOf (nbits / 8) w))

end Sys2Proof.Machine
end

