-- ==== Sys2Proof/Machine/Step.lean ====
section
/-! DEFINITION. One step, and placing an instruction where the next step fetches it. -/

namespace Sys2Proof.Machine

/-- One step is one whole operation (70_reset_and_hazards.md R202). -/
def step (s : State) : Host.Outcome State Fault Refusal :=
  serve s

/-- `s` with the table word `w` presented as the next item (notes/assumptions/11.md). -/
def State.withFetchWord (s : State) (nbits w : Nat) : State :=
  match tableItem nbits w with
  | none => s
  | some i => { s with pending := i :: s.pending }

end Sys2Proof.Machine
end

