-- ==== Sys2Proof/Machine/BlockFunction.lean ====
section
/-! DEFINITION. The block as the spec has it: a function from a request to a response with the tables
as parameters (10_state.md R20, 92_eei_decisions.md D22), written from the table of request codes
(30_encoding.md R75). Statements compare the step machine with it. -/

namespace Sys2Proof.Machine

/-- `Req -> Rsp` (10_state.md R20; 30_encoding.md R75, R76, R79). -/
def blockFunction (t : Tables) (r : Request) : Response :=
  let sel := r.code.extractLsb' 0 4
  match r.code.toNat / 16 with
  | 0x1 => responseOf (encodeRsp t ⟨sel⟩ r.inputs)
  | 0x2 => responseOf (unpackRsp ⟨sel⟩ r.inputs)
  | 0x3 => responseOf (decflagsRsp ⟨sel⟩ r.inputs)
  | 0x4 => responseOf (decp24Rsp r.inputs)
  | 0x5 => responseOf (dect16Rsp r.inputs)
  | 0x6 => responseOf (decu16Rsp r.inputs)
  | 0x7 => responseOf (toluxRsp (r.code.extractLsb' 0 2) r.inputs)
  | 0x8 => responseOf (lookupRsp t ⟨sel⟩ r.inputs)
  | 0x9 => responseOf (lkrefreshRsp t r.inputs)
  | 0xA => responseOf (modecmdRsp ⟨sel⟩)
  | _ => .err .illegalRequest

end Sys2Proof.Machine
end

