-- ==== Sys2Proof/Machine/Flags.lean ====
section
/-! DEFINITION. The hardware has no flags and no condition codes (10_state.md R23); the only status it
produces is the status code of a response. This file gives the status codes (60_exceptions.md R166)
and the response record's fields as the port shows them (10_state.md R32). -/

namespace Sys2Proof.Machine

/-- The status code of an error (60_exceptions.md R166). CANCEL_OUTCOME has no number in the spec: its
status is a free value (notes/assumptions/15.md). -/
def Error.status (e : Error) : BitVec 4 :=
  match e with
  | .configurationError => 0x1#4
  | .unknownRegisterError => 0x2#4
  | .unknownOptionError => 0x3#4
  | .unsupportedRefreshTimeError => 0x4#4
  | .protocolError => 0x5#4
  | .busError => 0x6#4
  | .retryExhausted => 0x7#4
  | .illegalRequest => 0xF#4
  | .cancelled => Config.cancelStatus

/-- The status of a response: 0 for `Ok` (10_state.md R32). -/
def Response.status (r : Response) : BitVec 4 :=
  match r with
  | .ok _ => 0x0#4
  | .err e => e.status

/-- The raw output bytes, where the response carries some: `nbytes` is their number and `bk` the
`k`-th (10_state.md R32). -/
def Response.raw (r : Response) : Option (List Byte) :=
  match r with
  | .ok (.bytes raw) => some raw
  | _ => none

/-- The field outputs, where the response carries some (10_state.md R34). -/
def Response.fields (r : Response) : Option FieldOuts :=
  match r with
  | .ok (.fields fo) => some fo
  | _ => none

/-- The numeric result, where the response carries one (10_state.md R33). -/
def Response.number (r : Response) : Option (BitVec 32) :=
  match r with
  | .ok (.res n) => some n
  | _ => none

/-- The physical value, where the response carries one: the exact rational, which is the normative
result (42_measurement_decoder.md R130). -/
def Response.value (r : Response) : Option Rat :=
  match r with
  | .ok (.value q _) => some q
  | _ => none

/-- The "float" a consumer sees, where the response carries one (42_measurement_decoder.md R130,
R135; 92_eei_decisions.md D17). -/
def Response.float (r : Response) : Option Rat :=
  match r with
  | .ok (.value _ f) => some f
  | _ => none

end Sys2Proof.Machine
end

