-- ==== Sys2Proof/Safety.lean ====
section
/-! DEFINITION. What counts as a good state and a good bus trace, in the terms of the statements. -/

namespace Sys2Proof.Machine

/-- Follows the exclusive scope along a bus trace from `held`; `none` when the trace breaks its
rules: a scope is entered only when it is not held and left only when it is, and no write stands
inside one (43_environment_ops.md R151). -/
def scopeAfter (held : Bool) (es : List BusEvent) : Option Bool :=
  match es with
  | [] => some held
  | .enterScope :: rest => if held then none else scopeAfter true rest
  | .leaveScope :: rest => if held then scopeAfter false rest else none
  | .write _ _ _ :: rest => if held then none else scopeAfter held rest
  | .read _ _ _ :: rest => scopeAfter held rest

/-- A completed transfer has moved exactly the register's declared length (20_memory.md R46). -/
def transferWhole (e : BusEvent) : Bool :=
  match e with
  | .read a n .done => decide (registerLength a = some n)
  | .write a raw .done => decide (registerLength a = some raw.length)
  | _ => true

/-- A good state, between steps: the tables meet their constraints (10_state.md R27, R28), no request
is kept at the port (10_state.md R36), the exclusive scope is released (43_environment_ops.md R151),
and the bus trace keeps the scope's rules and whole transfers. -/
structure State.Good (s : State) : Prop where
  tables : tablesWf s.tables = true
  port : s.port = PortInputs.idle
  scope : s.scope = false
  trace : scopeAfter false s.bus = some false
  transfers : s.bus.all transferWhole = true

/-- The precondition of an item: a call that reads is given at least one attempt
(43_environment_ops.md R148). -/
def Item.admissible (i : Item) : Bool :=
  match i with
  | .call args (.getPressure _) => decide (1 ≤ args.maxAttempts)
  | .call args (.getTemperature _) => decide (1 ≤ args.maxAttempts)
  | .call args (.getAmbientLux _) => decide (1 ≤ args.maxAttempts)
  | .call args .getWhiteCount => decide (1 ≤ args.maxAttempts)
  | .call args (.readWithRetry _ _) => decide (1 ≤ args.maxAttempts)
  | _ => true

/-- A safe outcome of a step: the machine goes on. -/
def goesOn (o : Host.Outcome State Fault Refusal) : Prop :=
  ∃ t, o = .next t

end Sys2Proof.Machine
end

