-- ==== Sys2Proof/Certificates/Slice0/Obligations.lean ====
section
/-! DEFINITION. The statements for the provers, written from the numbered rules of the spec. -/

namespace Sys2Proof.Machine

/-! ### Words of the statements -/

/-- The largest legal code of a field (40_codec.md R91). -/
def fieldMax (f : Field) : Nat :=
  match f with
  | .gain => 3
  | .it => 15
  | .pers => 3
  | .intEn => 1
  | .sd => 1
  | .psmMode => 3
  | .psmEn => 1
  | .msb => 255
  | .lsb => 255
  | .intLow => 1
  | .intHigh => 1

/-- The mask of a layout's named bits (40_codec.md R95). -/
def namedMask (l : Layout) : Nat :=
  match l with
  | .alsConf => 0x1BF3
  | .alsWh => 0xFFFF
  | .alsWl => 0xFFFF
  | .psm => 0x07
  | .alsInt => 0xC000

/-- `values` that give every named field of the layout the code `c` says. -/
def codesOf (l : Layout) (c : Field → Int) : List (Key × Operand) :=
  (layoutFields l).map (fun f => (.field f, .code (c f)))

/-- The mapping from the layout's named fields to the codes `c` says. -/
def mappingOf (l : Layout) (c : Field → Nat) : List (Field × Nat) :=
  (layoutFields l).map (fun f => (f, c f))

/-- A slot carries the code `c` for field `f`: as an integer, or as an option name of the field's own
namespace (40_codec.md R98). -/
def carries (t : Tables) (f : Field) (sl : Slot) (c : Nat) : Prop :=
  sl.present = true ∧
  ((sl.named = false ∧ sl.val.toNat = c) ∨
   (sl.named = true ∧ ∃ space o b, fieldSpace f = some space ∧ optName t space sl.val = some o ∧
      optCode t space o = some b ∧ b.toNat = c))

/-- The slots are legal operands of a layout: a slot with a field carries a code in the field's range,
and a slot with no field is absent (30_encoding.md R77, 40_codec.md R98). -/
def slotsLegal (t : Tables) (l : Layout) (slots : List Slot) : Prop :=
  ∀ (k : Nat) (sl : Slot), slots[k]? = some sl →
    match (layoutFields l)[k]? with
    | some f => ∃ c, carries t f sl c ∧ c ≤ fieldMax f
    | none => sl.present = false

/-- Two tables have the same entries in one namespace. -/
def sameSpace (t u : Tables) (f : Namespace) : Prop :=
  t.optRows.filter (fun r => r.space == f) = u.optRows.filter (fun r => r.space == f) ∧
  t.optNames.filter (fun r => r.space == f) = u.optNames.filter (fun r => r.space == f)

/-- How an accepted write ends on Transport's answer, on the trace and as a response
(43_environment_ops.md R146, R149). -/
def writeEnd (a : Answer) : Xfer × Response :=
  match a with
  | .bytes _ => (.done, .ok .ack)
  | .busError => (.busError, .err .busError)
  | .protocolError => (.busError, .err .busError)

/-- The state after one attempt to write `raw` at `a`: one answer of Transport is drawn, and it alone
decides how the write ends. -/
def afterWrite (s : State) (a : BusAddr) (raw : List Byte) : State :=
  { (nextAnswer s).2 with
    port := PortInputs.idle,
    bus := s.bus ++ [.write a raw (writeEnd (nextAnswer s).1).1],
    responses := s.responses ++ [(writeEnd (nextAnswer s).1).2] }

/-- The calls that read one register with the retry policy, with its address and length
(43_environment_ops.md R155, R156, R161). -/
def readsWithRetry (c : Call) (a : BusAddr) (n : Nat) : Prop :=
  ((∃ r, c = .getAmbientLux r) ∧ a = ⟨0x10#7, 0x04#8⟩ ∧ n = 2) ∨
  (c = .getWhiteCount ∧ a = ⟨0x10#7, 0x05#8⟩ ∧ n = 2) ∨
  c = .readWithRetry a n

/-- Transport's answers to the reads of one register that fails transiently `k` times and then gives
its bytes. -/
def failThen (k : Nat) (raw : List Byte) : List Answer :=
  List.replicate k .busError ++ [.bytes raw]

/-- The trace of those reads (43_environment_ops.md R148). -/
def failThenTrace (a : BusAddr) (n k : Nat) : List BusEvent :=
  List.replicate k (.read a n .busError) ++ [.read a n .done]

/-- A read of one byte that fails transiently some times and then gives its byte. -/
structure Reading where
  reg : BusAddr
  failures : Nat
  byte : Byte
  deriving DecidableEq, Repr

/-- The calls on the bus that some readings make. -/
def attemptsOf (rs : List Reading) : Nat :=
  (rs.map (fun r => r.failures + 1)).sum

/-- An item that comes to an access to the bus: a register word that decodes, a call that reads with at
least one attempt, a configuration call whose ENCODE succeeds, and any other call; no request and no reset
(20_memory.md R49). -/
def comesToTheBus (t : Tables) (i : Item) : Prop :=
  match i with
  | .request _ _ => False
  | .reset _ _ => False
  | .word _ r raw => ∃ ins, decode (.register r) raw = .ok ins
  | .call _ (.setConfig vals) => ∃ raw, encodeOp t 0x0 vals = .ok raw
  | .call _ (.setPowerSaveMode vals) => ∃ raw, encodeOp t 0x3 vals = .ok raw
  | .call _ (.setThresholdWindow high m b) => ∃ raw,
      encodeOp t (if high then 0x1 else 0x2) [(.field .msb, .code m), (.field .lsb, .code b)] = .ok raw
  | .call args c => (Item.call args c).admissible = true

end Sys2Proof.Machine

open Sys2Proof Sys2Proof.Machine

/-! ### Encoding and the step -/

/-- Decoding the word of a well-formed instruction, from its own source, gives the instruction back:
no bit of a request code or of a register word's fields is dropped (30_encoding.md R61 to R69, R74 to
R76). -/
def Obligations.DecodeOfEncode : Prop :=
  ∀ i : Instr, wellFormed i = true → decode (sourceOf i) (encode i) = .ok i

/-- Words written out from the spec's encodings decode to their rows (30_encoding.md R61, R64, R65,
R67, R75; 41_config_tables.md R118). -/
def Obligations.WordsDecodeToTheirRows : Prop :=
  decode .requestPort [0b00010011#8] = .ok (.encode ⟨0b0011#4⟩) ∧
  decode .requestPort [0b01110010#8] = .ok (.tolux 0b00#2 0b10#2) ∧
  decode .requestPort [0b10100101#8] = .ok (.modecmd ⟨0b0101#4⟩) ∧
  decode (.register .alsConf) [0b00010000#8, 0b11010001#8] = .ok (.fmtAlsConf 2 3 1 0 1) ∧
  decode (.register .psm) [0b11111101#8] = .ok (.fmtPsm 2 1) ∧
  decode (.register .alsInt) [0b01000000#8, 0b11111111#8] = .ok (.fmtAlsInt 0 1) ∧
  decode (.register .pressure) [0xFF#8, 0x00#8, 0x00#8] = .ok (.fmtP24 0xFF0000#24) ∧
  decode (.register .command) [0b00101011#8] = .ok .cmdDormant125ms

/-- A step runs the instruction that the oldest pending item's word decodes to, with the item taken
from the queue and its request lines at the port; a consumer call runs with its retry arguments. For
requests this is R14, R201 and R202. That a register word or a command byte presented as an item runs as
an instruction is the model's choice (notes/assumptions/6.md, 7.md, 8.md), as is that items come from a
queue that the outside world fills (notes/assumptions/11.md) and that with nothing pending the step
changes nothing (notes/assumptions/5.md). -/
def Obligations.StepRunsTheOldestItem : Prop :=
  ∀ (s : State) (rest : List Item),
    (∀ (p : Nat) (r : Request) (i : Instr), s.pending = .request p r :: rest →
      decode .requestPort [r.code] = .ok i →
      step s = exec i { s with pending := rest, port := r.inputs }) ∧
    (∀ (p : Nat) (w : RegWord) (raw : List Byte) (i : Instr), s.pending = .word p w raw :: rest →
      decode (.register w) raw = .ok i →
      step s = exec i { s with pending := rest, port := PortInputs.idle }) ∧
    (∀ (args : RetryArgs) (c : Call), s.pending = .call args c :: rest →
      step s = runCall c { s with pending := rest, port := PortInputs.idle, retry := args }) ∧
    (s.pending = [] → step s = .next s)

/-- A request code whose `op` is 0x0 or 0xB to 0xF is answered with IllegalRequest, status 0xF, whatever
its selector, and every other code is an operation's (30_encoding.md R79). -/
def Obligations.UndefinedRequestCodesAreIllegal : Prop :=
  ∀ (s : State) (p : Nat) (r : Request) (rest : List Item), s.pending = .request p r :: rest →
    ((r.code.toNat / 16 = 0 ∨ 11 ≤ r.code.toNat / 16) →
      step s = .next { s with pending := rest, port := PortInputs.idle,
                              responses := s.responses ++ [.err .illegalRequest] } ∧
      (Response.err .illegalRequest).status = 0xF#4) ∧
    ((1 ≤ r.code.toNat / 16 ∧ r.code.toNat / 16 ≤ 10) →
      ∃ i, decode .requestPort [r.code] = .ok i ∧ sourceOf i = .requestPort)

/-! ### The register codec -/

/-- ENCODE of ALS_CONF: operands given as codes or as option names of their own namespaces, each in
range, give the two bytes of `GAIN<<11 | IT<<6 | PERS<<4 | INT_EN<<1 | SD` (30_encoding.md R61). -/
def Obligations.EncodeAlsConfGivesTheFormula : Prop :=
  ∀ (s : State) (gain it pers intEn sd : Nat),
    carries s.tables .gain s.port.slot0 gain → carries s.tables .it s.port.slot1 it →
    carries s.tables .pers s.port.slot2 pers → carries s.tables .intEn s.port.slot3 intEn →
    carries s.tables .sd s.port.slot4 sd →
    gain ≤ 3 → it ≤ 15 → pers ≤ 3 → intEn ≤ 1 → sd ≤ 1 →
    exec (.encode ⟨0x0#4⟩) s = .next (s.respond (.ok (.bytes
      (let v := gain <<< 11 ||| it <<< 6 ||| pers <<< 4 ||| intEn <<< 1 ||| sd
       [BitVec.ofNat 8 (v >>> 8), BitVec.ofNat 8 (v &&& 0xFF)]))))

/-- ENCODE of PSM gives the one byte `PSM_MODE<<1 | PSM_EN`, and ENCODE of ALS_INT the two bytes with
INT_LOW at bit 15, INT_HIGH at bit 14 and zeros below (30_encoding.md R64, R65). -/
def Obligations.EncodePsmAndAlsIntGiveTheFormula : Prop :=
  (∀ (s : State) (mode en : Nat),
    carries s.tables .psmMode s.port.slot0 mode → carries s.tables .psmEn s.port.slot1 en →
    s.port.slot2.present = false → s.port.slot3.present = false → s.port.slot4.present = false →
    mode ≤ 3 → en ≤ 1 →
    exec (.encode ⟨0x3#4⟩) s = .next (s.respond (.ok (.bytes [BitVec.ofNat 8 (mode <<< 1 ||| en)])))) ∧
  (∀ (s : State) (low high : Nat),
    carries s.tables .intLow s.port.slot0 low → carries s.tables .intHigh s.port.slot1 high →
    s.port.slot2.present = false → s.port.slot3.present = false → s.port.slot4.present = false →
    low ≤ 1 → high ≤ 1 →
    exec (.encode ⟨0x6#4⟩) s =
      .next (s.respond (.ok (.bytes [BitVec.ofNat 8 (low <<< 7 ||| high <<< 6), 0x00#8]))))

/-- The window layouts: two bytes are encoded as they are, for both windows, at the abstract level
(40_codec.md R100) and at the port (R98); the count is `256*m + l` (R100); a byte outside 0 to 255, above
or below, fails (R91, R100); and the consumer call passes its two bytes to that ENCODE and writes the
result to its window's register, 0x01 or 0x02 (43_environment_ops.md R157, an inference of the spec). -/
def Obligations.WindowsHoldTheirBytes : Prop :=
  (∀ (t : Tables) (l : Nat) (m b : Int), l = 0x1 ∨ l = 0x2 →
    (0 ≤ m → m ≤ 255 → 0 ≤ b → b ≤ 255 →
      encodeOp t l [(.field .msb, .code m), (.field .lsb, .code b)] =
        .ok [BitVec.ofInt 8 m, BitVec.ofInt 8 b] ∧
      (be [BitVec.ofInt 8 m, BitVec.ofInt 8 b] : Int) = 256 * m + b) ∧
    ((m < 0 ∨ 255 < m ∨ b < 0 ∨ 255 < b) →
      encodeOp t l [(.field .msb, .code m), (.field .lsb, .code b)] =
        .error .configurationError)) ∧
  (∀ (s : State) (l : LayoutSel) (m b : Nat), l.bits = 0x1#4 ∨ l.bits = 0x2#4 →
    carries s.tables .msb s.port.slot0 m → carries s.tables .lsb s.port.slot1 b →
    s.port.slot2.present = false → s.port.slot3.present = false → s.port.slot4.present = false →
    m ≤ 255 → b ≤ 255 →
    exec (.encode l) s =
      .next (s.respond (.ok (.bytes [BitVec.ofNat 8 m, BitVec.ofNat 8 b])))) ∧
  (fieldSpace .msb = none ∧ fieldSpace .lsb = none) ∧
  (∀ (s : State) (high : Bool) (m b : Int), 0 ≤ m → m ≤ 255 → 0 ≤ b → b ≤ 255 → s.scope = false →
    runCall (.setThresholdWindow high m b) s =
      .next (afterWrite s ⟨0x10#7, if high then 0x01#8 else 0x02#8⟩
        [BitVec.ofInt 8 m, BitVec.ofInt 8 b]))

/-- ENCODE is all or nothing: it answers UnknownRegisterError exactly for a selector with no layout
(whatever the slots, so before any other error), the whole buffer of `LEN(L)` bytes exactly when every
slot is legal, and ConfigurationError otherwise (a missing, unknown, unresolved or out-of-range
operand); and it changes nothing else (40_codec.md R90, R92, R93, R98; 60_exceptions.md R169). -/
def Obligations.EncodeIsAllOrNothing : Prop :=
  ∀ (l : LayoutSel) (s : State),
    match layoutOfId l.bits.toNat with
    | none => exec (.encode l) s = .next (s.respond (.err .unknownRegisterError))
    | some lay =>
      (slotsLegal s.tables lay s.port.slots →
        ∃ raw, raw.length = layoutLen lay ∧
          exec (.encode l) s = .next (s.respond (.ok (.bytes raw)))) ∧
      (¬ slotsLegal s.tables lay s.port.slots →
        exec (.encode l) s = .next (s.respond (.err .configurationError)))

/-- The range law of field codes: a code is legal exactly from 0 to its field's maximum; legal codes
are encoded as they are, and one illegal code, below 0 or at `2^w` or above, fails the whole ENCODE
with ConfigurationError (40_codec.md R91). -/
def Obligations.FieldCodesAreRangeChecked : Prop :=
  (∀ lay f w, LayoutItem.field f w ∈ layoutItems lay → fieldMax f + 1 = 2 ^ w) ∧
  ∀ (t : Tables) (l : Nat) (lay : Layout) (c : Field → Int), layoutOfId l = some lay →
    ((∀ f ∈ layoutFields lay, 0 ≤ c f ∧ c f ≤ fieldMax f) →
      ∃ raw, encodeOp t l (codesOf lay c) = .ok raw ∧
        unpackOp l raw = .ok (mappingOf lay (fun f => (c f).toNat))) ∧
    ((∃ f ∈ layoutFields lay, c f < 0 ∨ (fieldMax f : Int) < c f) →
      encodeOp t l (codesOf lay c) = .error .configurationError)

/-- The round-trip laws (40_codec.md R95): UNPACK recovers the codes that ENCODE was given; ENCODE of
what UNPACK gives is the raw value with its filler bits cleared; ENCODE is injective on legal codes;
its image is exactly the raw values whose filler bits are zero. -/
def Obligations.EncodeAndUnpackRoundTrip : Prop :=
  ∀ (t : Tables) (l : Nat) (lay : Layout), layoutOfId l = some lay →
    (∀ c : Field → Nat, (∀ f ∈ layoutFields lay, c f ≤ fieldMax f) →
      ∃ raw, encodeOp t l (codesOf lay (fun f => c f)) = .ok raw ∧
        unpackOp l raw = .ok (mappingOf lay c)) ∧
    (∀ raw : List Byte, raw.length = layoutLen lay →
      ∃ c : Field → Nat, unpackOp l raw = .ok (mappingOf lay c) ∧
        encodeOp t l (codesOf lay (fun f => c f)) =
          .ok (bytesOf (layoutLen lay) (be raw &&& namedMask lay))) ∧
    (∀ c d : Field → Nat, (∀ f ∈ layoutFields lay, c f ≤ fieldMax f ∧ d f ≤ fieldMax f) →
      encodeOp t l (codesOf lay (fun f => c f)) = encodeOp t l (codesOf lay (fun f => d f)) →
      ∀ f ∈ layoutFields lay, c f = d f) ∧
    (∀ raw : List Byte,
      (∃ c : Field → Nat, (∀ f ∈ layoutFields lay, c f ≤ fieldMax f) ∧
        encodeOp t l (codesOf lay (fun f => c f)) = .ok raw) ↔
      (raw.length = layoutLen lay ∧ be raw &&& namedMask lay = be raw))

/-- UNPACK of ALS_CONF puts GAIN, IT, PERS, INT_EN and SD, each the unsigned bits at its position, in
the five field outputs (30_encoding.md R61, R72; 40_codec.md R99). -/
def Obligations.UnpackAlsConfGivesTheFields : Prop :=
  ∀ (s : State) (b0 b1 : Byte), s.port.raw = [b0, b1] →
    exec (.unpack ⟨0x0#4⟩) s = .next (s.respond (.ok (.fields
      ⟨some (((b0 ++ b1).extractLsb' 11 2).setWidth 8), some (((b0 ++ b1).extractLsb' 6 4).setWidth 8),
       some (((b0 ++ b1).extractLsb' 4 2).setWidth 8), some (((b0 ++ b1).extractLsb' 1 1).setWidth 8),
       some (((b0 ++ b1).extractLsb' 0 1).setWidth 8)⟩)))

/-- UNPACK of the other four layouts: MSB and LSB of a window, PSM_MODE and PSM_EN, INT_LOW and
INT_HIGH, in the first two field outputs, the rest not present (30_encoding.md R62 to R65). -/
def Obligations.UnpackShortLayoutsGivesTheFields : Prop :=
  (∀ (s : State) (l : LayoutSel) (b0 b1 : Byte), l.bits = 0x1#4 ∨ l.bits = 0x2#4 →
    s.port.raw = [b0, b1] →
    exec (.unpack l) s = .next (s.respond (.ok (.fields ⟨some b0, some b1, none, none, none⟩)))) ∧
  (∀ (s : State) (b0 : Byte), s.port.raw = [b0] →
    exec (.unpack ⟨0x3#4⟩) s = .next (s.respond (.ok (.fields
      ⟨some ((b0.extractLsb' 1 2).setWidth 8), some ((b0.extractLsb' 0 1).setWidth 8),
       none, none, none⟩)))) ∧
  (∀ (s : State) (b0 b1 : Byte), s.port.raw = [b0, b1] →
    exec (.unpack ⟨0x6#4⟩) s = .next (s.respond (.ok (.fields
      ⟨some ((b0.extractLsb' 7 1).setWidth 8), some ((b0.extractLsb' 6 1).setWidth 8),
       none, none, none⟩))))

/-- DECFLAGS gives exactly the single-bit fields, 1 for true and 0 for false, in layout order: INT_EN
and SD, nothing for the windows, PSM_EN, INT_LOW and INT_HIGH (40_codec.md R96, R99). -/
def Obligations.DecflagsGivesTheSingleBitFields : Prop :=
  (∀ (s : State) (b0 b1 : Byte), s.port.raw = [b0, b1] →
    exec (.decflags ⟨0x0#4⟩) s = .next (s.respond (.ok (.fields
      ⟨some ((b1.extractLsb' 1 1).setWidth 8), some ((b1.extractLsb' 0 1).setWidth 8),
       none, none, none⟩))) ∧
    exec (.decflags ⟨0x1#4⟩) s =
      .next (s.respond (.ok (.fields ⟨none, none, none, none, none⟩))) ∧
    exec (.decflags ⟨0x2#4⟩) s =
      .next (s.respond (.ok (.fields ⟨none, none, none, none, none⟩))) ∧
    exec (.decflags ⟨0x6#4⟩) s = .next (s.respond (.ok (.fields
      ⟨some ((b0.extractLsb' 7 1).setWidth 8), some ((b0.extractLsb' 6 1).setWidth 8),
       none, none, none⟩)))) ∧
  (∀ (s : State) (b0 : Byte), s.port.raw = [b0] →
    exec (.decflags ⟨0x3#4⟩) s = .next (s.respond (.ok (.fields
      ⟨some ((b0.extractLsb' 0 1).setWidth 8), none, none, none, none⟩))))

/-- DECFLAGS agrees with UNPACK: on every raw value of the right length it has an entry for exactly the
named fields of width 1, true where UNPACK's code is 1 (40_codec.md R97). -/
def Obligations.DecflagsAgreesWithUnpack : Prop :=
  ∀ (l : Nat) (lay : Layout) (raw : List Byte), layoutOfId l = some lay →
    raw.length = layoutLen lay →
    ∃ flags codes, flagsOp l raw = .ok flags ∧ unpackOp l raw = .ok codes ∧
      ∀ f b, (f, b) ∈ flags ↔
        (LayoutItem.field f 1 ∈ layoutItems lay ∧ ∃ c, (f, c) ∈ codes ∧ b = decide (c = 1))

/-- Filler bits are ignored on decode: two requests whose raw bytes agree on the layout's named bits
get the same response from UNPACK, and from DECFLAGS (30_encoding.md R73). -/
def Obligations.FillerBitsAreIgnored : Prop :=
  ∀ (l : LayoutSel) (lay : Layout) (s t : State), layoutOfId l.bits.toNat = some lay →
    s.port.raw.length = layoutLen lay → t.port.raw.length = layoutLen lay →
    be s.port.raw &&& namedMask lay = be t.port.raw &&& namedMask lay →
    ∃ u v, exec (.unpack l) s = .next (s.respond u) ∧ exec (.unpack l) t = .next (t.respond u) ∧
      exec (.decflags l) s = .next (s.respond v) ∧ exec (.decflags l) t = .next (t.respond v)

/-- UNPACK and DECFLAGS report a selector with no layout before they judge the byte count
(60_exceptions.md R169). -/
def Obligations.UnknownLayoutComesBeforeByteCount : Prop :=
  ∀ (l : LayoutSel) (s : State), l.bits.toNat ∉ [0x0, 0x1, 0x2, 0x3, 0x6] →
    exec (.unpack l) s = .next (s.respond (.err .unknownRegisterError)) ∧
    exec (.decflags l) s = .next (s.respond (.err .unknownRegisterError))

/-! ### The measurement decoder -/

/-- Two's-complement reconstruction at 24 and at 16 bits: the formula, the range, the congruence modulo
`2^N`, the bijection, and the boundary values (42_measurement_decoder.md R129). -/
def Obligations.SignLaw : Prop :=
  ∀ n : Nat, n = 24 ∨ n = 16 →
    (∀ v, v < 2 ^ n →
      (2 ^ (n - 1) ≤ v → sext n v = (v : Int) - 2 ^ n) ∧
      (v < 2 ^ (n - 1) → sext n v = v) ∧
      -2 ^ (n - 1) ≤ sext n v ∧ sext n v ≤ 2 ^ (n - 1) - 1 ∧
      (sext n v - v) % 2 ^ n = 0) ∧
    (∀ v w, v < 2 ^ n → w < 2 ^ n → sext n v = sext n w → v = w) ∧
    (∀ i : Int, -2 ^ (n - 1) ≤ i → i < 2 ^ (n - 1) → ∃ v, v < 2 ^ n ∧ sext n v = i) ∧
    sext n (2 ^ (n - 1)) = -2 ^ (n - 1) ∧ sext n (2 ^ (n - 1) - 1) = 2 ^ (n - 1) - 1

/-- DECP24 of three bytes gives the 32-bit sign extension of `b0 ++ b1 ++ b2`, whatever the selector
(42_measurement_decoder.md R125). -/
def Obligations.Decp24SignExtends : Prop :=
  ∀ (s : State) (x : BitVec 4) (b0 b1 b2 : Byte), s.port.raw = [b0, b1, b2] →
    exec (.decp24 x) s = .next (s.respond (.ok (.res (BitVec.signExtend 32 (b0 ++ b1 ++ b2)))))

/-- DECT16 of two bytes gives the 32-bit sign extension of `b0 ++ b1`, whatever the selector
(42_measurement_decoder.md R127). -/
def Obligations.Dect16SignExtends : Prop :=
  ∀ (s : State) (x : BitVec 4) (b0 b1 : Byte), s.port.raw = [b0, b1] →
    exec (.dect16 x) s = .next (s.respond (.ok (.res (BitVec.signExtend 32 (b0 ++ b1)))))

/-- DECU16 of two bytes gives `b0 ++ b1` zero-extended, whatever the selector
(42_measurement_decoder.md R128). -/
def Obligations.Decu16ZeroExtends : Prop :=
  ∀ (s : State) (x : BitVec 4) (b0 b1 : Byte), s.port.raw = [b0, b1] →
    exec (.decu16 x) s = .next (s.respond (.ok (.res (BitVec.setWidth 32 (b0 ++ b1)))))

/-- The port results of the three decoders hold the integer exactly: read back as `res` below `2^31`
and `res - 2^32` above, they give the signed integer, and the count as it is; with the two patterns
the source's examples have (42_measurement_decoder.md R132). -/
def Obligations.PortResultsReadBack : Prop :=
  (∀ (s : State) (x : BitVec 4) (i : Int), decp24Op s.port.raw = .ok i →
    ∃ r : BitVec 32, exec (.decp24 x) s = .next (s.respond (.ok (.res r))) ∧
      i = if r.toNat < 2 ^ 31 then (r.toNat : Int) else (r.toNat : Int) - 2 ^ 32) ∧
  (∀ (s : State) (x : BitVec 4) (i : Int), dect16Op s.port.raw = .ok i →
    ∃ r : BitVec 32, exec (.dect16 x) s = .next (s.respond (.ok (.res r))) ∧
      i = if r.toNat < 2 ^ 31 then (r.toNat : Int) else (r.toNat : Int) - 2 ^ 32) ∧
  (∀ (s : State) (x : BitVec 4) (n : Nat), decu16Op s.port.raw = .ok n →
    ∃ r : BitVec 32, exec (.decu16 x) s = .next (s.respond (.ok (.res r))) ∧ r.toNat = n) ∧
  (decp24Op [0xFF#8, 0x00#8, 0x00#8] = .ok (-65536) ∧ tc32 (-65536) = 0xFFFF0000#32) ∧
  (dect16Op [0x80#8, 0x00#8] = .ok (-32768) ∧ tc32 (-32768) = 0xFFFF8000#32)

/-- The length checks, together: any byte count but the operation's own is ProtocolError, and nothing
is decoded (42_measurement_decoder.md R138). -/
def Obligations.WrongByteCountIsProtocolError : Prop :=
  ∀ s : State,
    (∀ x, s.port.raw.length ≠ 3 → exec (.decp24 x) s = .next (s.respond (.err .protocolError))) ∧
    (∀ x, s.port.raw.length ≠ 2 → exec (.dect16 x) s = .next (s.respond (.err .protocolError))) ∧
    (∀ x, s.port.raw.length ≠ 2 → exec (.decu16 x) s = .next (s.respond (.err .protocolError))) ∧
    (∀ l lay, layoutOfId l.bits.toNat = some lay → s.port.raw.length ≠ layoutLen lay →
      exec (.unpack l) s = .next (s.respond (.err .protocolError)) ∧
      exec (.decflags l) s = .next (s.respond (.err .protocolError)))

/-- TOLUX never fails: its result is `count * (288 >> r)` units of 0.0001 lux, at most 18874080, and
is the exact product `count * RES(r)`; the product is linear in the count, 0 at count 0, halves with
each `r`, and is 2.88 lux for 100 counts at 0.0288 (42_measurement_decoder.md R134). -/
def Obligations.ToluxIsTheExactProduct : Prop :=
  (∀ (s : State) (x r : BitVec 2), ∃ n : BitVec 32,
    exec (.tolux x r) s = .next (s.respond (.ok (.res n))) ∧
    n.toNat = s.port.slot0.val.toNat * (288 >>> r.toNat) ∧ n.toNat ≤ 18874080 ∧
    (n.toNat : Rat) / 10000 = toluxOp s.port.slot0.val.toNat r) ∧
  (resolution 0 = 288 / 10000 ∧ resolution 1 = 144 / 10000 ∧ resolution 2 = 72 / 10000 ∧
    resolution 3 = 36 / 10000) ∧
  (∀ (a b : Nat) (r : BitVec 2), toluxOp (a + b) r = toluxOp a r + toluxOp b r ∧ toluxOp 0 r = 0) ∧
  (∀ (a : Nat) (r : BitVec 2), r.toNat < 3 → toluxOp a r = 2 * toluxOp a (r + 1)) ∧
  toluxOp 100 0 = 288 / 100

/-- The decoders with a scale: for every positive integer scale the exact rational, or ROUND_FN of it and
of the number of places where `round` is given, and the operation's own error on a wrong byte count
(42_measurement_decoder.md R126, R131); and no value for a scale of 0 or less (the model's stop,
notes/assumptions/16.md). -/
def Obligations.ScaledDecodersAreExact : Prop :=
  (∀ (raw : List Byte) (scale : Int), 1 ≤ scale →
    decodePressure raw scale none = .next ((decp24Op raw).map (fun i => (i : Rat) / scale)) ∧
    decodeTemperature raw scale none = .next ((dect16Op raw).map (fun i => (i : Rat) / scale)) ∧
    ∀ places : Int,
      decodePressure raw scale (some places) =
        .next ((decp24Op raw).map (fun i => Config.roundFn ((i : Rat) / scale) places)) ∧
      decodeTemperature raw scale (some places) =
        .next ((dect16Op raw).map (fun i => Config.roundFn ((i : Rat) / scale) places))) ∧
  (∀ (raw : List Byte) (scale : Int) (round : Option Int), scale ≤ 0 →
    decodePressure raw scale round = .refused .scaleOutsideDomain ∧
    decodeTemperature raw scale round = .refused .scaleOutsideDomain) ∧
  decodePressure [0xFF#8, 0x00#8, 0x00#8] 4096 none = .next (.ok (-16)) ∧
  decodeTemperature [0x80#8, 0x00#8] 256 none = .next (.ok (-128))

/-- At the default scale no rounding occurs: an unrounded pressure value is an integer of 24 bits over
`2^12`, a temperature value one of 16 bits over `2^8`, and its float is the value itself
(42_measurement_decoder.md R130). At another scale the float is FLOAT_FMT's image: of the exact value where
`round` is absent (R130), and of the value that ROUND_FN has rounded where it is given, an order of
rounding that R131 leaves open and that is the model's choice (notes/assumptions/16.md), as it is that
FLOAT_FMT's images are rationals. -/
def Obligations.DefaultScaleFloatsAreExact : Prop :=
  (∀ (raw : List Byte) (q : Rat), decodePressure raw 4096 none = .next (.ok q) →
    (∃ i : Int, -2 ^ 23 ≤ i ∧ i ≤ 2 ^ 23 - 1 ∧ q = i / 2 ^ 12) ∧
    readingFloat 4096 4096 none q = q) ∧
  (∀ (raw : List Byte) (q : Rat), decodeTemperature raw 256 none = .next (.ok q) →
    (∃ i : Int, -2 ^ 15 ≤ i ∧ i ≤ 2 ^ 15 - 1 ∧ q = i / 2 ^ 8) ∧
    readingFloat 256 256 none q = q) ∧
  (∀ (default scale : Int) (round : Option Int) (q : Rat), scale ≠ default →
    readingFloat default scale round q = Config.floatFmt q)

/-! ### The table operations -/

/-- LOOKUP answers the code its field's namespace gives the name, and UnknownOptionError when the name is
not registered there or the field has no namespace: a selector above 6 at the port, and at the abstract
level a field such as MSB, or no field's name (41_config_tables.md R110, 92_eei_decisions.md D31). That an
index that stands for no name is an unregistered name at the port is the model's reading
(notes/assumptions/22.md). -/
def Obligations.LookupAnswersItsNamespace : Prop :=
  ∀ (f : FieldSel) (s : State),
    (6 < f.bits.toNat → exec (.lookup f) s = .next (s.respond (.err .unknownOptionError))) ∧
    (∀ space, namespaceOfId f.bits.toNat = some space →
      (∀ o c, optName s.tables space s.port.slot0.val = some o → optCode s.tables space o = some c →
        exec (.lookup f) s =
          .next (s.respond (.ok (.fields ⟨some c, none, none, none, none⟩)))) ∧
      (∀ o, optName s.tables space s.port.slot0.val = some o → optCode s.tables space o = none →
        exec (.lookup f) s = .next (s.respond (.err .unknownOptionError))) ∧
      (optName s.tables space s.port.slot0.val = none →
        exec (.lookup f) s = .next (s.respond (.err .unknownOptionError)))) ∧
    (∀ (t : Tables) (g : Field) (o : String),
      (∀ space c, fieldSpace g = some space → optCode t space o = some c →
        lookupField t (.field g) o = .ok c) ∧
      (∀ space, fieldSpace g = some space → optCode t space o = none →
        lookupField t (.field g) o = .error .unknownOptionError) ∧
      (g ∈ [.msb, .lsb, .intLow, .intHigh] →
        lookupField t (.field g) o = .error .unknownOptionError) ∧
      (∀ k, lookupField t (.unknown k) o = .error .unknownOptionError))

/-- Namespaces are never merged: each of the seven fields owns a namespace of its own, which its
identifier selects, no other field and no other identifier has one (10_state.md R26), and LOOKUP's response
and ENCODE's resolution of a field depend on the table's rows of that field's namespace only
(41_config_tables.md R111). -/
def Obligations.NamespacesAreSeparate : Prop :=
  (namespaceOfId 0 = some .gain ∧ fieldSpace .gain = some .gain ∧
    namespaceOfId 1 = some .it ∧ fieldSpace .it = some .it ∧
    namespaceOfId 2 = some .pers ∧ fieldSpace .pers = some .pers ∧
    namespaceOfId 3 = some .intEn ∧ fieldSpace .intEn = some .intEn ∧
    namespaceOfId 4 = some .sd ∧ fieldSpace .sd = some .sd ∧
    namespaceOfId 5 = some .psmMode ∧ fieldSpace .psmMode = some .psmMode ∧
    namespaceOfId 6 = some .psmEn ∧ fieldSpace .psmEn = some .psmEn ∧
    (∀ k : Nat, 6 < k → namespaceOfId k = none) ∧
    ∀ f : Field, f ∈ [.msb, .lsb, .intLow, .intHigh] → fieldSpace f = none) ∧
  (∀ (f : FieldSel) (space : Namespace) (s t : State), namespaceOfId f.bits.toNat = some space →
    sameSpace s.tables t.tables space → s.port = t.port →
    ∃ r, exec (.lookup f) s = .next (s.respond r) ∧ exec (.lookup f) t = .next (t.respond r)) ∧
  (∀ (f : Field) (space : Namespace) (t u : Tables) (vals : List (Key × Operand)) (w : Nat),
    fieldSpace f = some space → sameSpace t u space →
    resolveField t vals f w = resolveField u vals f w)

/-- What every admissible option table holds: the two given entries, no `"foo"` for GAIN, and every
code in its field's range (41_config_tables.md R112). -/
def Obligations.GivenOptionsHold : Prop :=
  ∀ t : Tables, tablesWf t = true →
    optCode t .gain "1x" = some 0b00#8 ∧ optCode t .it "25ms" = some 0b1100#8 ∧
    optCode t .gain "foo" = none ∧
    ∀ (f : Field) (space : Namespace) (o : String) (c : Byte), fieldSpace f = some space →
      optCode t space o = some c → c.toNat ≤ fieldMax f

/-- The lookup-then-encode law: for every registered option of a field and any legal codes for the
other fields, ENCODE with the name gives the same bytes as ENCODE with the code that LOOKUP gives, and
UNPACK of them has that code at the field (41_config_tables.md R120). -/
def Obligations.LookupThenEncode : Prop :=
  ∀ (t : Tables) (l : Nat) (lay : Layout) (f : Field) (o : String) (b : Byte)
    (c : Field → Nat), tablesWf t = true → layoutOfId l = some lay → f ∈ layoutFields lay →
    lookupField t (.field f) o = .ok b →
    (∀ g ∈ layoutFields lay, g ≠ f → c g ≤ fieldMax g) → c f = b.toNat →
    ∃ raw,
      encodeOp t l ((layoutFields lay).map (fun g =>
        (.field g, if g = f then .named o else .code (c g)))) = .ok raw ∧
      encodeOp t l (codesOf lay (fun g => c g)) = .ok raw ∧
      unpackOp l raw = .ok (mappingOf lay c)

/-- An unregistered name is UnknownOptionError from LOOKUP and ConfigurationError from ENCODE
(41_config_tables.md R113). -/
def Obligations.UnknownNameIsReportedPerOperation : Prop :=
  ∀ (t : Tables) (l : Nat) (lay : Layout) (f : Field) (space : Namespace) (o : String)
    (vals : List (Key × Operand)), layoutOfId l = some lay → f ∈ layoutFields lay →
    fieldSpace f = some space → optCode t space o = none → vals.lookup (.field f) = some (.named o) →
    lookupField t (.field f) o = .error .unknownOptionError ∧
    encodeOp t l vals = .error .configurationError

/-- LKREFRESH answers the pair of a registered duration, UnsupportedRefreshTimeError for any other, and
no selector changes that (41_config_tables.md R114); every admissible table answers exactly 16 durations,
`"1100ms"` among them, and no two of them with the same pair (R115).
That an index that stands for no duration is an unregistered one is the model's reading
(notes/assumptions/22.md). -/
def Obligations.LkrefreshAnswersThePair : Prop :=
  (∀ (x : BitVec 4) (s : State),
    (∀ d p, refreshName s.tables s.port.slot0.val = some d → refreshPair s.tables d = some p →
      exec (.lkrefresh x) s = .next (s.respond (.ok (.fields
        ⟨some (p.1.setWidth 8), some (p.2.setWidth 8), none, none, none⟩)))) ∧
    (∀ d, refreshName s.tables s.port.slot0.val = some d → refreshPair s.tables d = none →
      exec (.lkrefresh x) s = .next (s.respond (.err .unsupportedRefreshTimeError))) ∧
    (refreshName s.tables s.port.slot0.val = none →
      exec (.lkrefresh x) s = .next (s.respond (.err .unsupportedRefreshTimeError)))) ∧
  (∀ t : Tables, tablesWf t = true →
    (∃ p, refreshPair t "1100ms" = some p) ∧
    (∃ ds : List String, ds.length = 16 ∧ ds.Nodup ∧
      ∀ d, d ∈ ds ↔ ∃ p, refreshPair t d = some p) ∧
    ∀ d d' p, refreshPair t d = some p → refreshPair t d' = some p → d = d')

/-- MODECMD returns the one command byte of a mode, and ConfigurationError for an identifier outside 0
to 5 (41_config_tables.md R117, 10_state.md R29). -/
def Obligations.ModecmdGivesTheCommandByte : Prop :=
  ∀ s : State,
    exec (.modecmd ⟨0#4⟩) s = .next (s.respond (.ok (.bytes [0x0A#8]))) ∧
    exec (.modecmd ⟨1#4⟩) s = .next (s.respond (.ok (.bytes [0x08#8]))) ∧
    exec (.modecmd ⟨2#4⟩) s = .next (s.respond (.ok (.bytes [0x09#8]))) ∧
    exec (.modecmd ⟨3#4⟩) s = .next (s.respond (.ok (.bytes [0x1B#8]))) ∧
    exec (.modecmd ⟨4#4⟩) s = .next (s.respond (.ok (.bytes [0x2B#8]))) ∧
    exec (.modecmd ⟨5#4⟩) s = .next (s.respond (.ok (.bytes [0xFB#8]))) ∧
    ∀ m : ModeSel, 6 ≤ m.bits.toNat →
      exec (.modecmd m) s = .next (s.respond (.err .configurationError))

/-! ### Register words and command bytes on the bus -/

/-- The five formats of registers that are written (the model's choice, notes/assumptions/6.md): the
instruction completes, its word, with zero filler bits, goes whole to its register in one attempt, and
Transport's answer decides whether the response is the acknowledgement or BusError; nothing else changes
but Transport's script and counter (30_encoding.md R61 to R64, R66; 43_environment_ops.md R149, R157). The
scope is released; a held one blocks the write (HeldScopeBlocksEveryBusUser). -/
def Obligations.WrittenWordsReachTheirRegister : Prop :=
  ∀ (i : Instr) (a : BusAddr),
    ((∃ g it p e d, i = .fmtAlsConf g it p e d) ∧ a = ⟨0x10#7, 0x00#8⟩) ∨
    ((∃ m b, i = .fmtAlsWh m b) ∧ a = ⟨0x10#7, 0x01#8⟩) ∨
    ((∃ m b, i = .fmtAlsWl m b) ∧ a = ⟨0x10#7, 0x02#8⟩) ∨
    ((∃ m e, i = .fmtPsm m e) ∧ a = ⟨0x10#7, 0x03#8⟩) ∨
    ((∃ c, i = .fmtCmd c) ∧ a = ⟨0x6D#7, 0x30#8⟩) →
    ∀ s : State, s.scope = false → exec i s = .next (afterWrite s a (encode i))

/-- The six command bytes (the model's choice, notes/assumptions/8.md): each is written, as the one byte
of its row, to the command register 0x30 of the pressure and temperature sensor in one attempt, and
Transport's answer decides whether the response is the acknowledgement or BusError (41_config_tables.md
R118; 43_environment_ops.md R149, R157). The scope is released; a held one blocks the write
(HeldScopeBlocksEveryBusUser). -/
def Obligations.CommandBytesReachTheCommandRegister : Prop :=
  ∀ (i : Instr) (b : Byte),
    (i = .cmdCombined ∧ b = 0x0A#8) ∨ (i = .cmdSingleTemperature ∧ b = 0x08#8) ∨
    (i = .cmdSinglePressure ∧ b = 0x09#8) ∨ (i = .cmdDormant63ms ∧ b = 0x1B#8) ∨
    (i = .cmdDormant125ms ∧ b = 0x2B#8) ∨ (i = .cmdDormant1s ∧ b = 0xFB#8) →
    ∀ s : State, s.scope = false → exec i s = .next (afterWrite s ⟨0x6D#7, 0x30#8⟩ [b])

/-- The four formats of registers that are read (the model's choice, notes/assumptions/7.md): the word is
decoded by its format's operation, and a composite word's reads stand inside one exclusive scope
(30_encoding.md R65, R67 to R69; 43_environment_ops.md R150). Where the scope is already held the word is
blocked, a fault (70_reset_and_hazards.md R193); that this holds of single-register words too, and of a
holder's own re-entry, is the model's choice (20_memory.md R52, notes/assumptions/14.md). -/
def Obligations.ReadWordsAreDecoded : Prop :=
  (∀ (s : State) (low high : BitVec 1),
    (s.scope = false →
      exec (.fmtAlsInt low high) s = .next { s with
        bus := s.bus ++ [.read ⟨0x10#7, 0x06#8⟩ 2 .done], port := PortInputs.idle,
        responses := s.responses ++
          [.ok (.fields ⟨some (low.setWidth 8), some (high.setWidth 8), none, none, none⟩)] }) ∧
    (s.scope = true → exec (.fmtAlsInt low high) s = .fault .scopeHeld)) ∧
  (∀ (s : State) (white : Bool) (v : BitVec 16),
    (s.scope = false →
      exec (.fmtU16 white v) s = .next { s with
        bus := s.bus ++ [.read ⟨0x10#7, if white then 0x05#8 else 0x04#8⟩ 2 .done],
        port := PortInputs.idle, responses := s.responses ++ [.ok (.res (v.setWidth 32))] }) ∧
    (s.scope = true → exec (.fmtU16 white v) s = .fault .scopeHeld)) ∧
  (∀ (s : State) (v : BitVec 24),
    (s.scope = false →
      exec (.fmtP24 v) s = .next { s with
        bus := s.bus ++ [.enterScope, .read ⟨0x6D#7, 0x06#8⟩ 1 .done,
          .read ⟨0x6D#7, 0x07#8⟩ 1 .done, .read ⟨0x6D#7, 0x08#8⟩ 1 .done, .leaveScope],
        port := PortInputs.idle, responses := s.responses ++ [.ok (.res (v.signExtend 32))] }) ∧
    (s.scope = true → exec (.fmtP24 v) s = .fault .scopeHeld)) ∧
  (∀ (s : State) (v : BitVec 16),
    (s.scope = false →
      exec (.fmtT16 v) s = .next { s with
        bus := s.bus ++ [.enterScope, .read ⟨0x6D#7, 0x09#8⟩ 1 .done,
          .read ⟨0x6D#7, 0x0A#8⟩ 1 .done, .leaveScope],
        port := PortInputs.idle, responses := s.responses ++ [.ok (.res (v.signExtend 32))] }) ∧
    (s.scope = true → exec (.fmtT16 v) s = .fault .scopeHeld))

/-! ### The block as a whole -/

/-- Every operation gives exactly one response and nothing else changes, and equal requests (with equal
tables) get equal responses, whatever else the two states hold (00_scope.md R13). -/
def Obligations.EqualRequestsGetEqualResponses : Prop :=
  ∀ (i : Instr) (s t : State), sourceOf i = .requestPort → s.tables = t.tables → s.port = t.port →
    ∃ r : Response,
      exec i s = .next { s with port := PortInputs.idle, responses := s.responses ++ [r] } ∧
      exec i t = .next { t with port := PortInputs.idle, responses := t.responses ++ [r] }

/-- Inputs an operation does not name are don't-cares: ENCODE sees its slots only, UNPACK, DECFLAGS and
the numeric decoders the raw bytes below `nbytes` only, TOLUX, LOOKUP and LKREFRESH the value of slot 0
only, MODECMD nothing; and unused selector bits change no response (10_state.md R30, 30_encoding.md R76,
R77). -/
def Obligations.UnnamedInputsAreDontCares : Prop :=
  ∀ (s : State) (p : PortInputs),
    (p.slots = s.port.slots → ∀ l, exec (.encode l) s = exec (.encode l) { s with port := p }) ∧
    (p.raw = s.port.raw →
      (∀ l, exec (.unpack l) s = exec (.unpack l) { s with port := p }) ∧
      (∀ l, exec (.decflags l) s = exec (.decflags l) { s with port := p }) ∧
      (∀ x y, exec (.decp24 x) s = exec (.decp24 y) { s with port := p }) ∧
      (∀ x y, exec (.dect16 x) s = exec (.dect16 y) { s with port := p }) ∧
      (∀ x y, exec (.decu16 x) s = exec (.decu16 y) { s with port := p })) ∧
    (p.slot0.val = s.port.slot0.val →
      (∀ x y r, exec (.tolux x r) s = exec (.tolux y r) { s with port := p }) ∧
      (∀ f, exec (.lookup f) s = exec (.lookup f) { s with port := p }) ∧
      (∀ x y, exec (.lkrefresh x) s = exec (.lkrefresh y) { s with port := p })) ∧
    (∀ m, exec (.modecmd m) s = exec (.modecmd m) { s with port := p })

/-- The step machine refines the block as the spec has it: a step on a pending request appends the
response that the request-to-response function gives, for every request code, and changes nothing but
the queue and the request lines (10_state.md R20, R36). -/
def Obligations.StepRefinesTheBlockFunction : Prop :=
  ∀ (s : State) (p : Nat) (r : Request) (rest : List Item), s.pending = .request p r :: rest →
    step s = .next { s with pending := rest, port := PortInputs.idle,
                            responses := s.responses ++ [blockFunction s.tables r] }

/-- Every request is answered, each with exactly one response, in request order, whatever stands behind
them in the queue: `n` steps answer `n` requests (70_reset_and_hazards.md R201). A reset during an operation
loses that operation's response and nothing else, and between operations it changes nothing: of requests
with one reset among them, the ones before it and the ones after it are answered as the block's fixed
function answers them, in order, and the rest of the machine is as it was (R190, 92_eei_decisions.md D27, a
reading of the spec; that a reset is an item of the queue is the model's form of it,
notes/assumptions/27.md). -/
def Obligations.RequestsAreAnsweredInOrder : Prop :=
  (∀ (rs : List (Nat × Request)) (s : State) (rest : List Item),
    s.pending = rs.map (fun e => .request e.1 e.2) ++ rest →
    ∃ t : State, Host.Core.run Sys2Proof.core rs.length s = .next t ∧
      t.responses = s.responses ++ rs.map (fun e => blockFunction s.tables e.2) ∧ t.pending = rest ∧
      t.tables = s.tables ∧ t.bus = s.bus) ∧
  (∀ (s : State) (rs qs : List (Nat × Request)) (p : Nat) (during : Option Request) (rest : List Item),
    s.pending = rs.map (fun e => .request e.1 e.2) ++ .reset p during ::
      (qs.map (fun e => .request e.1 e.2) ++ rest) →
    Host.Core.run Sys2Proof.core (rs.length + 1 + qs.length) s = .next { s with
      pending := rest, port := PortInputs.idle,
      responses := s.responses ++ (rs ++ qs).map (fun e => blockFunction s.tables e.2) })

/-- The read-only tables never change: no step writes them, from any state (10_state.md R21,
20_memory.md R53). -/
def Obligations.NoStepChangesTheTables : Prop :=
  ∀ s t : State, step s = .next t → t.tables = s.tables

/-- Every step keeps a state good: the tables stay admissible, no request stays at the port, the
exclusive scope is released on every path and no write stands inside one, and every completed transfer
moved its register's whole length (10_state.md R28, R36; 20_memory.md R46, R52; 43_environment_ops.md
R151). -/
def Obligations.StepKeepsStatesGood : Prop :=
  ∀ s t : State, s.Good → step s = .next t → t.Good

/-- The machine after reset is good, and holds no request, no response and no bus access
(10_state.md R37; the idle port, the released scope and the empty trace are the model's, log 2). -/
def Obligations.ResetIsGood : Prop :=
  State.reset.Good ∧ State.reset.pending = [] ∧ State.reset.responses = [] ∧ State.reset.bus = []

/-- From a good state whose oldest item is admissible the machine always goes on: no operation, register
word or admissible call stops it (00_scope.md R13, 70_reset_and_hazards.md R201). -/
def Obligations.GoodStatesGoOn : Prop :=
  ∀ s : State, s.Good → (∀ i rest, s.pending = i :: rest → i.admissible = true) → goesOn (step s)

/-- The only stops, from any state: a fault is an item that comes to an access to the bus, a register
word or a call and no request or reset, and meets a held scope; and a refusal is a call that reads given
no attempt, an item that is not admissible (the model's stops, notes/assumptions/14.md and 15.md;
70_reset_and_hazards.md R193, 43_environment_ops.md R148). -/
def Obligations.StopsAreOnlyTheNamedOnes : Prop :=
  ∀ s : State,
    (∀ f, step s = .fault f → f = .scopeHeld ∧ s.scope = true ∧
      ∃ i rest, s.pending = i :: rest ∧ comesToTheBus s.tables i) ∧
    (∀ r, step s = .refused r → r = .attemptsOutsideDomain ∧
      ∃ args c rest, s.pending = .call args c :: rest ∧ args.maxAttempts = 0 ∧
        (Item.call args c).admissible = false)

/-! ### The environment -/

/-- The attempt counts of the retry policy: `k` transient failures and then success is success after
exactly `k+1` calls when the bound allows them, and RetryExhausted after exactly `maxAttempts` calls
otherwise (43_environment_ops.md R148); a driver's readWithRetry call is that loop, where no other caller
gets in between (OvertakenReadsAreTheSameRead has the rest); a bound below 1 gets no outcome (refused, the
model's stop, notes/assumptions/15.md). -/
def Obligations.RetryCountsAttempts : Prop :=
  (∀ (s : State) (a : BusAddr) (n k : Nat) (raw : List Byte) (rest : List Answer),
    registerLength a = some n → raw.length = n → s.retry.cancelIn = none →
    s.script = List.replicate k .busError ++ .bytes raw :: rest →
    (k + 1 ≤ s.retry.maxAttempts → ∃ t, readWithRetry a n s = (.ok raw, t) ∧
      t.bus = s.bus ++ List.replicate k (.read a n .busError) ++ [.read a n .done] ∧
      t.script = rest ∧ t.log = s.log ++ List.replicate k a) ∧
    (1 ≤ s.retry.maxAttempts → s.retry.maxAttempts ≤ k → ∃ t,
      readWithRetry a n s = (.error .retryExhausted, t) ∧
      t.bus = s.bus ++ List.replicate s.retry.maxAttempts (.read a n .busError) ∧
      t.log = s.log ++ List.replicate s.retry.maxAttempts a)) ∧
  (∀ (s : State) (args : RetryArgs) (rest : List Item) (a : BusAddr) (n : Nat),
    s.pending = .call args (.readWithRetry a n) :: rest → s.scope = false → s.turns = [] →
    1 ≤ args.maxAttempts →
    ∃ r t, readWithRetry a n { s with pending := rest, port := PortInputs.idle, retry := args } = (r, t) ∧
      step s = .next { t with port := PortInputs.idle,
                              responses := t.responses ++ [responseOf (r.map .bytes)] }) ∧
  (∀ s : State, s.retry.maxAttempts = 0 → ∀ c, (c = .getWhiteCount ∨
      (∃ r, c = .getAmbientLux r) ∨ (∃ r, c = .getPressure r) ∨ (∃ r, c = .getTemperature r) ∨
      (∃ a n, c = .readWithRetry a n)) →
    runCall c s = .refused .attemptsOutsideDomain)

/-- A ProtocolError is not retried: after `k` transient failures it propagates on call `k+1`
(43_environment_ops.md R147). A cancellation signal stops the loop (R152); that the signal is counted in
attempts and looked at before each, and that its outcome is one of its own, neither RetryExhausted nor
BusError, is the model's choice, because R152 leaves the outcome open (notes/assumptions/15.md). -/
def Obligations.ProtocolErrorAndCancellationEndTheLoop : Prop :=
  (∀ (s : State) (a : BusAddr) (n k : Nat) (rest : List Answer),
    registerLength a = some n → s.retry.cancelIn = none → k + 1 ≤ s.retry.maxAttempts →
    s.script = List.replicate k .busError ++ .protocolError :: rest →
    ∃ t, readWithRetry a n s = (.error .protocolError, t) ∧ t.script = rest ∧
      t.bus = s.bus ++ List.replicate k (.read a n .busError) ++ [.read a n .protocolError]) ∧
  (∀ (s : State) (a : BusAddr) (n j : Nat) (rest : List Answer),
    registerLength a = some n → s.retry.cancelIn = some j → j + 1 ≤ s.retry.maxAttempts →
    s.script = List.replicate j .busError ++ rest →
    ∃ t, readWithRetry a n s = (.error .cancelled, t) ∧ t.script = rest ∧
      t.bus = s.bus ++ List.replicate j (.read a n .busError))

/-- Writes use a single attempt: whatever Transport answers, one call is made, and a failure is answered
as BusError (43_environment_ops.md R149; that an answer protocolError to a write is one too is the
model's reading, notes/assumptions/13.md). Transport's answer is the script's next, and past its end a
free value drawn by the counter (notes/assumptions/12.md). -/
def Obligations.WritesUseASingleAttempt : Prop :=
  ∀ (s : State) (a : BusAddr) (raw : List Byte), registerLength a = some raw.length →
    s.writeAnd a raw = afterWrite s a raw ∧
    (∀ b rest, s.script = .bytes b :: rest → s.writeAnd a raw =
      { s with script := rest, bus := s.bus ++ [.write a raw .done], port := PortInputs.idle,
               responses := s.responses ++ [.ok .ack] }) ∧
    (∀ e rest, s.script = e :: rest → e = .busError ∨ e = .protocolError → s.writeAnd a raw =
      { s with script := rest, bus := s.bus ++ [.write a raw .busError], port := PortInputs.idle,
               responses := s.responses ++ [.err .busError] }) ∧
    (s.script = [] → s.writeAnd a raw =
      { s with asked := s.asked + 1,
               bus := s.bus ++ [.write a raw (writeEnd (Config.transportAnswer s.asked)).1],
               port := PortInputs.idle,
               responses := s.responses ++ [(writeEnd (Config.transportAnswer s.asked)).2] })

/-- A composite read holds the exclusive scope over all its reads and releases it on every exit path,
whatever Transport answers and whatever fails, and nothing stands between its ends but one-byte reads of
its own registers (43_environment_ops.md R150, R151). That it starts only where the scope is released
rests on the model's stop (notes/assumptions/14.md). -/
def Obligations.CompositeReadsReleaseTheScope : Prop :=
  ∀ (s t : State) (args : RetryArgs) (c : Call) (regs : List BusAddr) (rest : List Item),
    s.pending = .call args c :: rest →
    ((∃ r, c = .getPressure r) ∧ regs = [⟨0x6D#7, 0x06#8⟩, ⟨0x6D#7, 0x07#8⟩, ⟨0x6D#7, 0x08#8⟩]) ∨
    ((∃ r, c = .getTemperature r) ∧ regs = [⟨0x6D#7, 0x09#8⟩, ⟨0x6D#7, 0x0A#8⟩]) →
    step s = .next t →
    s.scope = false ∧ t.scope = false ∧
    ∃ es, t.bus = s.bus ++ [.enterScope] ++ es ++ [.leaveScope] ∧
      ∀ e ∈ es, ∃ a ∈ regs, ∃ x, e = .read a 1 x

/-- `getPressure(round?)` on a script of three bytes, each after any number of transient failures below
the call's bound: one-byte reads of the registers 0x06, 0x07, 0x08 in one scope, the failed ones tried
again there and logged (43_environment_ops.md R147, R151), and the exact value of the 24-bit
two's-complement word over 4096, which is its float too, or ROUND_FN of it where `round` is given
(43_environment_ops.md R150, R153; 42_measurement_decoder.md R130, R131; 20_memory.md R44). A
cancellation signal, if there is one, stands after all these attempts. That each of the reads has the
call's own bound on attempts, anew, which R150 leaves out, and that one count down to the signal runs
over them all, is the model's choice (notes/assumptions/15.md), and so is that the float of a value
ROUND_FN has rounded is FLOAT_FMT's image of it (notes/assumptions/16.md). -/
def Obligations.GetPressureReadsAndDecodes : Prop :=
  ∀ (s : State) (args : RetryArgs) (rest : List Item) (b0 b1 b2 : Byte) (k0 k1 k2 : Nat)
    (more : List Answer) (round : Option Int),
    s.pending = .call args (.getPressure round) :: rest → s.scope = false →
    (∀ n, args.cancelIn = some n → k0 + k1 + k2 + 3 ≤ n) →
    k0 + 1 ≤ args.maxAttempts → k1 + 1 ≤ args.maxAttempts → k2 + 1 ≤ args.maxAttempts →
    s.script = failThen k0 [b0] ++ failThen k1 [b1] ++ failThen k2 [b2] ++ more →
    ∃ t, step s = .next t ∧ t.pending = rest ∧ t.script = more ∧ t.scope = false ∧
      t.responses = s.responses ++ [.ok (match round with
        | none => .value (((b0 ++ b1 ++ b2).toInt : Rat) / 4096) (((b0 ++ b1 ++ b2).toInt : Rat) / 4096)
        | some places =>
          .value (Config.roundFn (((b0 ++ b1 ++ b2).toInt : Rat) / 4096) places)
            (Config.floatFmt (Config.roundFn (((b0 ++ b1 ++ b2).toInt : Rat) / 4096) places)))] ∧
      t.bus = s.bus ++ [.enterScope] ++ failThenTrace ⟨0x6D#7, 0x06#8⟩ 1 k0 ++
        failThenTrace ⟨0x6D#7, 0x07#8⟩ 1 k1 ++ failThenTrace ⟨0x6D#7, 0x08#8⟩ 1 k2 ++ [.leaveScope] ∧
      t.log = s.log ++ List.replicate k0 ⟨0x6D#7, 0x06#8⟩ ++ List.replicate k1 ⟨0x6D#7, 0x07#8⟩ ++
        List.replicate k2 ⟨0x6D#7, 0x08#8⟩

/-- `getTemperature(round?)` on a script of two bytes, each after any number of transient failures below
the call's bound: one-byte reads of the registers 0x09, 0x0A in one scope, the failed ones tried again
there and logged (43_environment_ops.md R147, R151), and the exact value of the 16-bit two's-complement
word over 256, which is its float too, or ROUND_FN of it where `round` is given (43_environment_ops.md
R150, R154; 42_measurement_decoder.md R130, R131). A cancellation signal, if there is one, stands after
all these attempts. That each of the reads has the call's own bound on attempts, anew, which R150 leaves
out, and that one count down to the signal runs over them all, is the model's choice
(notes/assumptions/15.md), and so is that the float of a value ROUND_FN has rounded is FLOAT_FMT's image of
it (notes/assumptions/16.md). -/
def Obligations.GetTemperatureReadsAndDecodes : Prop :=
  ∀ (s : State) (args : RetryArgs) (rest : List Item) (b0 b1 : Byte) (k0 k1 : Nat)
    (more : List Answer) (round : Option Int),
    s.pending = .call args (.getTemperature round) :: rest → s.scope = false →
    (∀ n, args.cancelIn = some n → k0 + k1 + 2 ≤ n) →
    k0 + 1 ≤ args.maxAttempts → k1 + 1 ≤ args.maxAttempts →
    s.script = failThen k0 [b0] ++ failThen k1 [b1] ++ more →
    ∃ t, step s = .next t ∧ t.pending = rest ∧ t.script = more ∧ t.scope = false ∧
      t.responses = s.responses ++ [.ok (match round with
        | none => .value (((b0 ++ b1).toInt : Rat) / 256) (((b0 ++ b1).toInt : Rat) / 256)
        | some places =>
          .value (Config.roundFn (((b0 ++ b1).toInt : Rat) / 256) places)
            (Config.floatFmt (Config.roundFn (((b0 ++ b1).toInt : Rat) / 256) places)))] ∧
      t.bus = s.bus ++ [.enterScope] ++ failThenTrace ⟨0x6D#7, 0x09#8⟩ 1 k0 ++
        failThenTrace ⟨0x6D#7, 0x0A#8⟩ 1 k1 ++ [.leaveScope] ∧
      t.log = s.log ++ List.replicate k0 ⟨0x6D#7, 0x09#8⟩ ++ List.replicate k1 ⟨0x6D#7, 0x0A#8⟩

/-- The two count calls, for every script and every cancellation signal: each is readWithRetry at register
0x04 or 0x05, of two bytes; an error of that read is the answer; and of the two bytes the answer is the
unsigned count times the caller's resolution, exactly and as the float that FLOAT_FMT rounds twice
(42_measurement_decoder.md R135), or the count (43_environment_ops.md R147, R155, R156). So after `k`
transient failures below the bound a call answers the word that follows them, after `k+1` reads. The scope
is released and no other caller gets in between (OvertakenReadsAreTheSameRead has the rest). How a
cancellation ends the read is the model's choice (notes/assumptions/15.md), and so is that FLOAT_FMT's
images are rationals (notes/assumptions/16.md). -/
def Obligations.CountCallsReadAndDecode : Prop :=
  ∀ (s : State) (args : RetryArgs) (rest : List Item),
    s.scope = false → s.turns = [] → 1 ≤ args.maxAttempts →
    (∀ r : BitVec 2, s.pending = .call args (.getAmbientLux r) :: rest →
      (∃ o t resp, readWithRetry ⟨0x10#7, 0x04#8⟩ 2
          { s with pending := rest, port := PortInputs.idle, retry := args } = (o, t) ∧
        step s = .next { t with port := PortInputs.idle, responses := s.responses ++ [resp] } ∧
        t.pending = rest ∧ t.responses = s.responses ∧ t.scope = false ∧ t.tables = s.tables ∧
        ((∃ e, o = .error e ∧ resp = .err e) ∨
          ∃ b0 b1, o = .ok [b0, b1] ∧ resp = .ok (.value (((b0 ++ b1).toNat : Rat) * resolution r)
            (Config.floatFmt (((b0 ++ b1).toNat : Rat) * Config.floatFmt (resolution r)))))) ∧
      ∀ (k : Nat) (b0 b1 : Byte) (more : List Answer), args.cancelIn = none →
        k + 1 ≤ args.maxAttempts → s.script = failThen k [b0, b1] ++ more →
        ∃ t, step s = .next t ∧ t.pending = rest ∧ t.script = more ∧
          t.responses = s.responses ++ [.ok (.value (((b0 ++ b1).toNat : Rat) * resolution r)
            (Config.floatFmt (((b0 ++ b1).toNat : Rat) * Config.floatFmt (resolution r))))] ∧
          t.bus = s.bus ++ failThenTrace ⟨0x10#7, 0x04#8⟩ 2 k ∧
          t.log = s.log ++ List.replicate k ⟨0x10#7, 0x04#8⟩) ∧
    (s.pending = .call args .getWhiteCount :: rest →
      (∃ o t resp, readWithRetry ⟨0x10#7, 0x05#8⟩ 2
          { s with pending := rest, port := PortInputs.idle, retry := args } = (o, t) ∧
        step s = .next { t with port := PortInputs.idle, responses := s.responses ++ [resp] } ∧
        t.pending = rest ∧ t.responses = s.responses ∧ t.scope = false ∧ t.tables = s.tables ∧
        ((∃ e, o = .error e ∧ resp = .err e) ∨
          ∃ b0 b1, o = .ok [b0, b1] ∧ resp = .ok (.count (b0 ++ b1).toNat))) ∧
      ∀ (k : Nat) (b0 b1 : Byte) (more : List Answer), args.cancelIn = none →
        k + 1 ≤ args.maxAttempts → s.script = failThen k [b0, b1] ++ more →
        ∃ t, step s = .next t ∧ t.pending = rest ∧ t.script = more ∧
          t.responses = s.responses ++ [.ok (.count (b0 ++ b1).toNat)] ∧
          t.bus = s.bus ++ failThenTrace ⟨0x10#7, 0x05#8⟩ 2 k ∧
          t.log = s.log ++ List.replicate k ⟨0x10#7, 0x05#8⟩)

/-- The configuration calls encode first: with a whole buffer they make one write, of exactly that
buffer, to their register, which ends as Transport answers; with an ENCODE error they answer it and the
bus is untouched; and setMode writes exactly its one byte, unchecked, to the command register
(43_environment_ops.md R157, R159). The scope is released; a held one blocks the write, not the ENCODE
error (HeldScopeBlocksEveryBusUser). -/
def Obligations.ConfigurationCallsWriteOnlyWholeBuffers : Prop :=
  (∀ (s : State) (c : Call) (l : Nat) (vals : List (Key × Operand)) (a : BusAddr),
    (c = .setConfig vals ∧ l = 0x0 ∧ a = ⟨0x10#7, 0x00#8⟩) ∨
    (c = .setPowerSaveMode vals ∧ l = 0x3 ∧ a = ⟨0x10#7, 0x03#8⟩) ∨
    (∃ m b, c = .setThresholdWindow true m b ∧ l = 0x1 ∧ a = ⟨0x10#7, 0x01#8⟩ ∧
      vals = [(.field .msb, .code m), (.field .lsb, .code b)]) ∨
    (∃ m b, c = .setThresholdWindow false m b ∧ l = 0x2 ∧ a = ⟨0x10#7, 0x02#8⟩ ∧
      vals = [(.field .msb, .code m), (.field .lsb, .code b)]) →
    (∀ e, encodeOp s.tables l vals = .error e → runCall c s = .next (s.respond (.err e))) ∧
    (∀ raw, encodeOp s.tables l vals = .ok raw → registerLength a = some raw.length ∧
      (s.scope = false → runCall c s = .next (afterWrite s a raw)))) ∧
  (∀ (s : State) (b : Byte), s.scope = false →
    runCall (.setMode b) s = .next (afterWrite s ⟨0x6D#7, 0x30#8⟩ [b]))

/-- The register map at the Transport boundary: thirteen registers exist, each with its length
(20_memory.md R41, R42, R45). A driver's single read of one makes one call: it gives the bytes Transport
answers, BusError, or ProtocolError, also for bytes of another number (43_environment_ops.md R145); its
read with the retry policy gives the bytes (R147). A read or a write of any other address or length is
ProtocolError, drawing no answer, and a failed single read is neither tried again nor logged: the model's
reading and choice (notes/assumptions/13.md, 25.md). The scope is released and no other caller gets in
between. -/
def Obligations.RegisterCallsKeepToTheMap : Prop :=
  (∀ (a : BusAddr) (n : Nat), registerLength a = some n ↔ (a, n) ∈
    [(⟨0x10#7, 0x00#8⟩, 2), (⟨0x10#7, 0x01#8⟩, 2), (⟨0x10#7, 0x02#8⟩, 2), (⟨0x10#7, 0x03#8⟩, 1),
     (⟨0x10#7, 0x04#8⟩, 2), (⟨0x10#7, 0x05#8⟩, 2), (⟨0x10#7, 0x06#8⟩, 2), (⟨0x6D#7, 0x06#8⟩, 1),
     (⟨0x6D#7, 0x07#8⟩, 1), (⟨0x6D#7, 0x08#8⟩, 1), (⟨0x6D#7, 0x09#8⟩, 1), (⟨0x6D#7, 0x0A#8⟩, 1),
     ((⟨0x6D#7, 0x30#8⟩ : BusAddr), 1)]) ∧
  ∀ (s : State) (args : RetryArgs) (rest : List Item) (a : BusAddr) (n : Nat) (raw : List Byte),
    1 ≤ args.maxAttempts → args.cancelIn = none → s.scope = false → s.turns = [] →
    (∀ c, c = .readWithRetry a n ∨ c = .readRegister a n → s.pending = .call args c :: rest →
      (∀ more, registerLength a = some n → raw.length = n → s.script = .bytes raw :: more →
        step s = .next { s with
          pending := rest, port := PortInputs.idle, retry := args, script := more,
          bus := s.bus ++ [.read a n .done], responses := s.responses ++ [.ok (.bytes raw)] }) ∧
      (∀ ans more, registerLength a = some n →
        ans = .protocolError ∨ (ans = .bytes raw ∧ raw.length ≠ n) → s.script = ans :: more →
        step s = .next { s with
          pending := rest, port := PortInputs.idle, retry := args, script := more,
          bus := s.bus ++ [.read a n .protocolError],
          responses := s.responses ++ [.err .protocolError] }) ∧
      (registerLength a ≠ some n →
        step s = .next { s with
          pending := rest, port := PortInputs.idle, retry := args,
          bus := s.bus ++ [.read a n .protocolError],
          responses := s.responses ++ [.err .protocolError] })) ∧
    (∀ more, s.pending = .call args (.readRegister a n) :: rest → registerLength a = some n →
      s.script = .busError :: more →
      step s = .next { s with
        pending := rest, port := PortInputs.idle, retry := args, script := more,
        bus := s.bus ++ [.read a n .busError],
        responses := s.responses ++ [.err .busError] }) ∧
    (s.pending = .call args (.writeRegister a raw) :: rest →
      (registerLength a = some raw.length →
        step s = .next (afterWrite { s with
          pending := rest, port := PortInputs.idle, retry := args } a raw)) ∧
      (registerLength a ≠ some raw.length →
        step s = .next { s with
          pending := rest, port := PortInputs.idle, retry := args,
          bus := s.bus ++ [.write a raw .protocolError],
          responses := s.responses ++ [.err .protocolError] }))

/-- A composite read fails with its first failing read's own error. The registers before that one,
`done`, give their bytes, each after any number of transient failures below the call's bound; then the read
of `a` fails transiently `k` times and ends the composite: with ProtocolError at once, on a protocol answer
or bytes of another number; with RetryExhausted after `maxAttempts` attempts of that register; or with
the cancellation, which no attempt before it has met. Every failed attempt is logged, no register after `a`
is read, nothing is decoded, and the scope is released (43_environment_ops.md R147, R150, R151, R152).
That each read of a composite has the call's own bound on attempts, anew, which R150 leaves out, that one
count down to the cancellation signal runs over all its reads, and the cancellation's outcome, are the
model's choice (notes/assumptions/15.md). -/
def Obligations.CompositeReadsFailWithTheFirstError : Prop :=
  ∀ (s : State) (args : RetryArgs) (rest : List Item) (c : Call) (done : List Reading)
    (a : BusAddr) (post : List BusAddr) (k : Nat) (fail more : List Answer) (e : Error)
    (tr : List BusEvent),
    s.pending = .call args c :: rest → s.scope = false → 1 ≤ args.maxAttempts →
    ((∃ r, c = .getPressure r) ∧ done.map (fun r => r.reg) ++ a :: post =
        [⟨0x6D#7, 0x06#8⟩, ⟨0x6D#7, 0x07#8⟩, ⟨0x6D#7, 0x08#8⟩]) ∨
    ((∃ r, c = .getTemperature r) ∧ done.map (fun r => r.reg) ++ a :: post =
        [⟨0x6D#7, 0x09#8⟩, ⟨0x6D#7, 0x0A#8⟩]) →
    (∀ r ∈ done, r.failures + 1 ≤ args.maxAttempts) →
    (k + 1 ≤ args.maxAttempts ∧ (∀ n, args.cancelIn = some n → attemptsOf done + k + 1 ≤ n) ∧
      (fail = [.protocolError] ∨ ∃ raw, raw.length ≠ 1 ∧ fail = [.bytes raw]) ∧
      e = .protocolError ∧ tr = [.read a 1 .protocolError]) ∨
    (k = args.maxAttempts ∧ (∀ n, args.cancelIn = some n → attemptsOf done + k ≤ n) ∧
      fail = [] ∧ e = .retryExhausted ∧ tr = []) ∨
    (k + 1 ≤ args.maxAttempts ∧ args.cancelIn = some (attemptsOf done + k) ∧
      fail = [] ∧ e = .cancelled ∧ tr = []) →
    s.script = done.flatMap (fun r => failThen r.failures [r.byte]) ++
      List.replicate k .busError ++ fail ++ more →
    ∃ t, step s = .next t ∧ t.pending = rest ∧ t.script = more ∧ t.scope = false ∧
      t.responses = s.responses ++ [.err e] ∧
      t.bus = s.bus ++ [.enterScope] ++ done.flatMap (fun r => failThenTrace r.reg 1 r.failures) ++
        List.replicate k (.read a 1 .busError) ++ tr ++ [.leaveScope] ∧
      t.log = s.log ++ done.flatMap (fun r => List.replicate r.failures r.reg) ++ List.replicate k a

/-- The status of every response: 0 for `Ok`, and the eight numbers of the errors (60_exceptions.md R166,
R182; 10_state.md R32). CANCEL_OUTCOME has no number in the spec (notes/assumptions/15.md). -/
def Obligations.StatusCodesAreTheTables : Prop :=
  (∀ r : Result, (Response.ok r).status = 0x0#4) ∧
  (Response.err .configurationError).status = 0x1#4 ∧
  (Response.err .unknownRegisterError).status = 0x2#4 ∧
  (Response.err .unknownOptionError).status = 0x3#4 ∧
  (Response.err .unsupportedRefreshTimeError).status = 0x4#4 ∧
  (Response.err .protocolError).status = 0x5#4 ∧
  (Response.err .busError).status = 0x6#4 ∧
  (Response.err .retryExhausted).status = 0x7#4 ∧
  (Response.err .illegalRequest).status = 0xF#4

/-- A register word of another byte count than its register's is answered with ProtocolError and nothing
is decoded, transferred or changed; a word of the right byte count decodes to an instruction of its
register (20_memory.md R46; that such a word is an item at all, and its outcome, are the model's reading,
notes/assumptions/24.md). -/
def Obligations.MalformedWordsAreProtocolErrors : Prop :=
  ∀ (w : RegWord) (n : Nat),
    (w ∈ [.psm, .command] ∧ n = 1) ∨
    (w ∈ [.alsConf, .alsWh, .alsWl, .alsInt, .ambient, .white, .temperature] ∧ n = 2) ∨
    (w = .pressure ∧ n = 3) →
    ∀ raw : List Byte,
      (raw.length ≠ n → ∀ (s : State) (p : Nat) (rest : List Item), s.pending = .word p w raw :: rest →
        step s = .next { s with pending := rest, port := PortInputs.idle,
                                responses := s.responses ++ [.err .protocolError] }) ∧
      (raw.length = n → ∃ i, decode (.register w) raw = .ok i ∧ sourceOf i = .register w)

/-- A held exclusive scope blocks every later bus user: every register word and command byte, and every
call that comes to an access; the operations of the block are not blocked (70_reset_and_hazards.md R193).
That blocking is a stop of the model, and that it meets single-register accesses and a holder's own
re-entry as well, and a read that is cancelled before its first attempt, is the model's choice
(20_memory.md R52, notes/assumptions/14.md). -/
def Obligations.HeldScopeBlocksEveryBusUser : Prop :=
  ∀ s : State, s.scope = true →
    (∀ i, sourceOf i ≠ .requestPort → exec i s = .fault .scopeHeld) ∧
    (∀ i, sourceOf i = .requestPort → goesOn (exec i s)) ∧
    (∀ c a n, readsWithRetry c a n → 1 ≤ s.retry.maxAttempts → runCall c s = .fault .scopeHeld) ∧
    (∀ round, 1 ≤ s.retry.maxAttempts → runCall (.getPressure round) s = .fault .scopeHeld ∧
      runCall (.getTemperature round) s = .fault .scopeHeld) ∧
    (∀ a n, runCall (.readRegister a n) s = .fault .scopeHeld) ∧
    (∀ a raw, runCall (.writeRegister a raw) s = .fault .scopeHeld) ∧
    (∀ b, runCall (.setMode b) s = .fault .scopeHeld) ∧
    (∀ vals raw, encodeOp s.tables 0x0 vals = .ok raw →
      runCall (.setConfig vals) s = .fault .scopeHeld) ∧
    (∀ vals raw, encodeOp s.tables 0x3 vals = .ok raw →
      runCall (.setPowerSaveMode vals) s = .fault .scopeHeld) ∧
    (∀ (high : Bool) (m b : Int), 0 ≤ m → m ≤ 255 → 0 ≤ b → b ≤ 255 →
      runCall (.setThresholdWindow high m b) s = .fault .scopeHeld)

/-- A read outside a scope that other callers overtake is the same read: after `j` failed attempts it
waits, with the attempts that are left and having answered nothing, behind as many items of other callers
as its turn says, but not behind its own caller's next item or what follows that; and where nothing gets in
between, the two steps of a read cut after `j` attempts end as the one step of the uncut read does, in
everything but the attempts it counts from (20_memory.md R50, 43_environment_ops.md R147; the turns are the
model's form of R50, notes/assumptions/18.md). -/
def Obligations.OvertakenReadsAreTheSameRead : Prop :=
  (∀ (s : State) (args : RetryArgs) (rest : List Item) (c : Call) (a : BusAddr) (n j k : Nat)
    (ts : List Turn) (more : List Answer),
    readsWithRetry c a n → registerLength a = some n → s.pending = .call args c :: rest →
    s.scope = false → args.cancelIn = none → s.turns = ⟨j, k⟩ :: ts → j < args.maxAttempts →
    s.script = List.replicate j .busError ++ more →
    ∃ t, step s = .next t ∧ t.turns = ts ∧ t.script = more ∧ t.responses = s.responses ∧
      t.pending = itemsAhead args.caller k rest ++
        .call ⟨args.maxAttempts - j, none, args.caller⟩ c ::
          rest.drop (itemsAhead args.caller k rest).length ∧
      t.bus = s.bus ++ List.replicate j (.read a n .busError) ∧
      t.log = s.log ++ List.replicate j a) ∧
  (∀ (s u : State) (args : RetryArgs) (rest : List Item) (c : Call) (a : BusAddr) (n j : Nat),
    readsWithRetry c a n → s.pending = .call args c :: rest → s.scope = false →
    s.turns = [⟨j, 0⟩] → j < args.maxAttempts → step { s with turns := [] } = .next u →
    step s = .next u ∨
    ∃ t v, step s = .next t ∧ t.responses = s.responses ∧ step t = .next v ∧
      v.retry.maxAttempts = args.maxAttempts - j ∧ { v with retry := u.retry } = u)

/-- The program order of each caller's bus accesses is kept (92_eei_decisions.md D24; 20_memory.md R50): a
step takes the oldest item, and if it puts that item's call back, to go on later, then only items of other
callers, from the front of the queue, go ahead of it, and the order of all the others stays. That a read
cut by turns is put back in the queue with the attempts that are left, and that items from its front go
ahead, is the model's form of it (notes/assumptions/18.md). -/
def Obligations.ProgramOrderOfEachCallerIsKept : Prop :=
  ∀ (s t : State) (i : Item) (rest : List Item), s.pending = i :: rest → step s = .next t →
    t.pending = rest ∨
    ∃ args left c ahead behind, i = .call args c ∧ rest = ahead ++ behind ∧
      t.pending = ahead ++ .call left c :: behind ∧ left.caller = args.caller ∧
      left.maxAttempts ≤ args.maxAttempts ∧ ∀ j ∈ ahead, j.caller ≠ i.caller

/-- Every interleaving of the failing attempts of two callers' reads outside a scope is admitted: for
every order in which the two can take them there are turns under which the machine's steps make exactly
those calls on the bus in that order, whatever stands behind the two in the queue (20_memory.md R50; the
turns are the model's form of it, notes/assumptions/18.md). -/
def Obligations.EveryInterleavingIsAdmitted : Prop :=
  ∀ (s : State) (who : Bool → Nat) (reg : Bool → BusAddr) (len max : Bool → Nat) (first : Bool)
    (order : List Bool) (rest : List Item) (more : List Answer), who true ≠ who false →
    (∀ p, registerLength (reg p) = some (len p)) → s.scope = false →
    (∀ p, (first :: order).count p < max p) →
    s.script = List.replicate (order.length + 1) .busError ++ more →
    s.pending = .call ⟨max first, none, who first⟩ (.readWithRetry (reg first) (len first)) ::
      .call ⟨max (!first), none, who (!first)⟩ (.readWithRetry (reg (!first)) (len (!first))) :: rest →
    ∃ ts t, Host.Core.run Sys2Proof.core (order.length + 1) { s with turns := ts } = .next t ∧
      t.bus = s.bus ++ (first :: order).map (fun p => .read (reg p) (len p) .busError) ∧
      t.log = s.log ++ (first :: order).map reg ∧ t.responses = s.responses ∧ t.script = more
end

