-- ==== Sys2Proof/Laws/State.lean ====
section
/-! SUPPORT. One lemma per field per update of State, so that no later proof unfolds a record
update. -/

namespace Sys2Proof.Machine

variable (s : State)

/-! ### respond -/

@[simp] theorem State.respond_tables (r : Response) : (s.respond r).tables = s.tables := rfl
@[simp] theorem State.respond_pending (r : Response) : (s.respond r).pending = s.pending := rfl
@[simp] theorem State.respond_port (r : Response) : (s.respond r).port = PortInputs.idle := rfl
@[simp] theorem State.respond_responses (r : Response) : (s.respond r).responses = s.responses ++ [r] := rfl
@[simp] theorem State.respond_bus (r : Response) : (s.respond r).bus = s.bus := rfl
@[simp] theorem State.respond_script (r : Response) : (s.respond r).script = s.script := rfl
@[simp] theorem State.respond_asked (r : Response) : (s.respond r).asked = s.asked := rfl
@[simp] theorem State.respond_scope (r : Response) : (s.respond r).scope = s.scope := rfl
@[simp] theorem State.respond_log (r : Response) : (s.respond r).log = s.log := rfl
@[simp] theorem State.respond_retry (r : Response) : (s.respond r).retry = s.retry := rfl
@[simp] theorem State.respond_turns (r : Response) : (s.respond r).turns = s.turns := rfl

/-! ### raise -/

@[simp] theorem State.raise_tables (e : Error) : (s.raise e).tables = s.tables := rfl
@[simp] theorem State.raise_pending (e : Error) : (s.raise e).pending = s.pending := rfl
@[simp] theorem State.raise_port (e : Error) : (s.raise e).port = PortInputs.idle := rfl
@[simp] theorem State.raise_responses (e : Error) : (s.raise e).responses = s.responses ++ [.err e] := rfl
@[simp] theorem State.raise_bus (e : Error) : (s.raise e).bus = s.bus := rfl
@[simp] theorem State.raise_script (e : Error) : (s.raise e).script = s.script := rfl
@[simp] theorem State.raise_asked (e : Error) : (s.raise e).asked = s.asked := rfl
@[simp] theorem State.raise_scope (e : Error) : (s.raise e).scope = s.scope := rfl
@[simp] theorem State.raise_log (e : Error) : (s.raise e).log = s.log := rfl
@[simp] theorem State.raise_retry (e : Error) : (s.raise e).retry = s.retry := rfl
@[simp] theorem State.raise_turns (e : Error) : (s.raise e).turns = s.turns := rfl

/-! ### accept -/

@[simp] theorem State.accept_tables (i : Item) (rest : List Item) : (s.accept i rest).tables = s.tables := rfl
@[simp] theorem State.accept_pending (i : Item) (rest : List Item) : (s.accept i rest).pending = rest := rfl
@[simp] theorem State.accept_port (i : Item) (rest : List Item) : (s.accept i rest).port = i.inputs := rfl
@[simp] theorem State.accept_responses (i : Item) (rest : List Item) : (s.accept i rest).responses = s.responses := rfl
@[simp] theorem State.accept_bus (i : Item) (rest : List Item) : (s.accept i rest).bus = s.bus := rfl
@[simp] theorem State.accept_script (i : Item) (rest : List Item) : (s.accept i rest).script = s.script := rfl
@[simp] theorem State.accept_asked (i : Item) (rest : List Item) : (s.accept i rest).asked = s.asked := rfl
@[simp] theorem State.accept_scope (i : Item) (rest : List Item) : (s.accept i rest).scope = s.scope := rfl
@[simp] theorem State.accept_log (i : Item) (rest : List Item) : (s.accept i rest).log = s.log := rfl
@[simp] theorem State.accept_retry (i : Item) (rest : List Item) : (s.accept i rest).retry = s.retry := rfl
@[simp] theorem State.accept_turns (i : Item) (rest : List Item) : (s.accept i rest).turns = s.turns := rfl

/-! ### event -/

@[simp] theorem State.event_tables (e : BusEvent) : (s.event e).tables = s.tables := rfl
@[simp] theorem State.event_pending (e : BusEvent) : (s.event e).pending = s.pending := rfl
@[simp] theorem State.event_port (e : BusEvent) : (s.event e).port = s.port := rfl
@[simp] theorem State.event_responses (e : BusEvent) : (s.event e).responses = s.responses := rfl
@[simp] theorem State.event_bus (e : BusEvent) : (s.event e).bus = s.bus ++ [e] := rfl
@[simp] theorem State.event_script (e : BusEvent) : (s.event e).script = s.script := rfl
@[simp] theorem State.event_asked (e : BusEvent) : (s.event e).asked = s.asked := rfl
@[simp] theorem State.event_scope (e : BusEvent) : (s.event e).scope = s.scope := rfl
@[simp] theorem State.event_log (e : BusEvent) : (s.event e).log = s.log := rfl
@[simp] theorem State.event_retry (e : BusEvent) : (s.event e).retry = s.retry := rfl
@[simp] theorem State.event_turns (e : BusEvent) : (s.event e).turns = s.turns := rfl

/-! ### tick -/

@[simp] theorem State.tick_tables : (s.tick).tables = s.tables := rfl
@[simp] theorem State.tick_pending : (s.tick).pending = s.pending := rfl
@[simp] theorem State.tick_port : (s.tick).port = s.port := rfl
@[simp] theorem State.tick_responses : (s.tick).responses = s.responses := rfl
@[simp] theorem State.tick_bus : (s.tick).bus = s.bus := rfl
@[simp] theorem State.tick_script : (s.tick).script = s.script := rfl
@[simp] theorem State.tick_asked : (s.tick).asked = s.asked := rfl
@[simp] theorem State.tick_scope : (s.tick).scope = s.scope := rfl
@[simp] theorem State.tick_log : (s.tick).log = s.log := rfl
@[simp] theorem State.tick_retry : (s.tick).retry = { s.retry with cancelIn := s.retry.cancelIn.map (fun k => k - 1) } := rfl
@[simp] theorem State.tick_turns : (s.tick).turns = s.turns := rfl

/-! ### logFailure -/

@[simp] theorem State.logFailure_tables (a : BusAddr) : (s.logFailure a).tables = s.tables := rfl
@[simp] theorem State.logFailure_pending (a : BusAddr) : (s.logFailure a).pending = s.pending := rfl
@[simp] theorem State.logFailure_port (a : BusAddr) : (s.logFailure a).port = s.port := rfl
@[simp] theorem State.logFailure_responses (a : BusAddr) : (s.logFailure a).responses = s.responses := rfl
@[simp] theorem State.logFailure_bus (a : BusAddr) : (s.logFailure a).bus = s.bus := rfl
@[simp] theorem State.logFailure_script (a : BusAddr) : (s.logFailure a).script = s.script := rfl
@[simp] theorem State.logFailure_asked (a : BusAddr) : (s.logFailure a).asked = s.asked := rfl
@[simp] theorem State.logFailure_scope (a : BusAddr) : (s.logFailure a).scope = s.scope := rfl
@[simp] theorem State.logFailure_log (a : BusAddr) : (s.logFailure a).log = s.log ++ [a] := rfl
@[simp] theorem State.logFailure_retry (a : BusAddr) : (s.logFailure a).retry = s.retry := rfl
@[simp] theorem State.logFailure_turns (a : BusAddr) : (s.logFailure a).turns = s.turns := rfl

/-! ### enterScope -/

@[simp] theorem State.enterScope_tables : (s.enterScope).tables = s.tables := rfl
@[simp] theorem State.enterScope_pending : (s.enterScope).pending = s.pending := rfl
@[simp] theorem State.enterScope_port : (s.enterScope).port = s.port := rfl
@[simp] theorem State.enterScope_responses : (s.enterScope).responses = s.responses := rfl
@[simp] theorem State.enterScope_bus : (s.enterScope).bus = s.bus ++ [.enterScope] := rfl
@[simp] theorem State.enterScope_script : (s.enterScope).script = s.script := rfl
@[simp] theorem State.enterScope_asked : (s.enterScope).asked = s.asked := rfl
@[simp] theorem State.enterScope_scope : (s.enterScope).scope = true := rfl
@[simp] theorem State.enterScope_log : (s.enterScope).log = s.log := rfl
@[simp] theorem State.enterScope_retry : (s.enterScope).retry = s.retry := rfl
@[simp] theorem State.enterScope_turns : (s.enterScope).turns = s.turns := rfl

/-! ### leaveScope -/

@[simp] theorem State.leaveScope_tables : (s.leaveScope).tables = s.tables := rfl
@[simp] theorem State.leaveScope_pending : (s.leaveScope).pending = s.pending := rfl
@[simp] theorem State.leaveScope_port : (s.leaveScope).port = s.port := rfl
@[simp] theorem State.leaveScope_responses : (s.leaveScope).responses = s.responses := rfl
@[simp] theorem State.leaveScope_bus : (s.leaveScope).bus = s.bus ++ [.leaveScope] := rfl
@[simp] theorem State.leaveScope_script : (s.leaveScope).script = s.script := rfl
@[simp] theorem State.leaveScope_asked : (s.leaveScope).asked = s.asked := rfl
@[simp] theorem State.leaveScope_scope : (s.leaveScope).scope = false := rfl
@[simp] theorem State.leaveScope_log : (s.leaveScope).log = s.log := rfl
@[simp] theorem State.leaveScope_retry : (s.leaveScope).retry = s.retry := rfl
@[simp] theorem State.leaveScope_turns : (s.leaveScope).turns = s.turns := rfl

/-! ### delivered -/

@[simp] theorem State.delivered_tables (as : List BusAddr) (n : Nat) : (s.delivered as n).tables = s.tables := rfl
@[simp] theorem State.delivered_pending (as : List BusAddr) (n : Nat) : (s.delivered as n).pending = s.pending := rfl
@[simp] theorem State.delivered_port (as : List BusAddr) (n : Nat) : (s.delivered as n).port = s.port := rfl
@[simp] theorem State.delivered_responses (as : List BusAddr) (n : Nat) : (s.delivered as n).responses = s.responses := rfl
@[simp] theorem State.delivered_bus (as : List BusAddr) (n : Nat) : (s.delivered as n).bus = s.bus ++ as.map (fun a => .read a n .done) := rfl
@[simp] theorem State.delivered_script (as : List BusAddr) (n : Nat) : (s.delivered as n).script = s.script := rfl
@[simp] theorem State.delivered_asked (as : List BusAddr) (n : Nat) : (s.delivered as n).asked = s.asked := rfl
@[simp] theorem State.delivered_scope (as : List BusAddr) (n : Nat) : (s.delivered as n).scope = s.scope := rfl
@[simp] theorem State.delivered_log (as : List BusAddr) (n : Nat) : (s.delivered as n).log = s.log := rfl
@[simp] theorem State.delivered_retry (as : List BusAddr) (n : Nat) : (s.delivered as n).retry = s.retry := rfl
@[simp] theorem State.delivered_turns (as : List BusAddr) (n : Nat) : (s.delivered as n).turns = s.turns := rfl

/-! ### takeTurn -/

@[simp] theorem State.takeTurn_tables : (s.takeTurn).tables = s.tables := rfl
@[simp] theorem State.takeTurn_pending : (s.takeTurn).pending = s.pending := rfl
@[simp] theorem State.takeTurn_port : (s.takeTurn).port = s.port := rfl
@[simp] theorem State.takeTurn_responses : (s.takeTurn).responses = s.responses := rfl
@[simp] theorem State.takeTurn_bus : (s.takeTurn).bus = s.bus := rfl
@[simp] theorem State.takeTurn_script : (s.takeTurn).script = s.script := rfl
@[simp] theorem State.takeTurn_asked : (s.takeTurn).asked = s.asked := rfl
@[simp] theorem State.takeTurn_scope : (s.takeTurn).scope = s.scope := rfl
@[simp] theorem State.takeTurn_log : (s.takeTurn).log = s.log := rfl
@[simp] theorem State.takeTurn_retry : (s.takeTurn).retry = s.retry := rfl
@[simp] theorem State.takeTurn_turns : (s.takeTurn).turns = s.turns.tail := rfl

/-! ### resetNow -/

@[simp] theorem State.resetNow_tables : (s.resetNow).tables = s.tables := rfl
@[simp] theorem State.resetNow_pending : (s.resetNow).pending = s.pending := rfl
@[simp] theorem State.resetNow_port : (s.resetNow).port = PortInputs.idle := rfl
@[simp] theorem State.resetNow_responses : (s.resetNow).responses = s.responses := rfl
@[simp] theorem State.resetNow_bus : (s.resetNow).bus = s.bus := rfl
@[simp] theorem State.resetNow_script : (s.resetNow).script = s.script := rfl
@[simp] theorem State.resetNow_asked : (s.resetNow).asked = s.asked := rfl
@[simp] theorem State.resetNow_scope : (s.resetNow).scope = s.scope := rfl
@[simp] theorem State.resetNow_log : (s.resetNow).log = s.log := rfl
@[simp] theorem State.resetNow_retry : (s.resetNow).retry = s.retry := rfl
@[simp] theorem State.resetNow_turns : (s.resetNow).turns = s.turns := rfl

/-! ### overtaken -/

@[simp] theorem State.overtaken_tables (n : Nat) (i : Item) :
    (s.overtaken n i).tables = s.tables := rfl
@[simp] theorem State.overtaken_pending (n : Nat) (i : Item) :
    (s.overtaken n i).pending = itemsAhead i.caller n s.pending ++
      i :: s.pending.drop (itemsAhead i.caller n s.pending).length := rfl
@[simp] theorem State.overtaken_port (n : Nat) (i : Item) :
    (s.overtaken n i).port = PortInputs.idle := rfl
@[simp] theorem State.overtaken_responses (n : Nat) (i : Item) :
    (s.overtaken n i).responses = s.responses := rfl
@[simp] theorem State.overtaken_bus (n : Nat) (i : Item) :
    (s.overtaken n i).bus = s.bus := rfl
@[simp] theorem State.overtaken_script (n : Nat) (i : Item) :
    (s.overtaken n i).script = s.script := rfl
@[simp] theorem State.overtaken_asked (n : Nat) (i : Item) :
    (s.overtaken n i).asked = s.asked := rfl
@[simp] theorem State.overtaken_scope (n : Nat) (i : Item) :
    (s.overtaken n i).scope = s.scope := rfl
@[simp] theorem State.overtaken_log (n : Nat) (i : Item) :
    (s.overtaken n i).log = s.log := rfl
@[simp] theorem State.overtaken_retry (n : Nat) (i : Item) :
    (s.overtaken n i).retry = s.retry := rfl
@[simp] theorem State.overtaken_turns (n : Nat) (i : Item) :
    (s.overtaken n i).turns = s.turns := rfl

/-! ### Ending an operation -/

/-- Both ends of an operation are one response. -/
theorem State.answer_eq (o : Except Error Result) : s.answer o = s.respond (responseOf o) := by
  cases o <;> rfl

@[simp] theorem State.answer_tables (o : Except Error Result) : (s.answer o).tables = s.tables := by
  rw [State.answer_eq]; rfl
@[simp] theorem State.answer_pending (o : Except Error Result) : (s.answer o).pending = s.pending := by
  rw [State.answer_eq]; rfl
@[simp] theorem State.answer_port (o : Except Error Result) : (s.answer o).port = PortInputs.idle := by
  rw [State.answer_eq]; rfl
@[simp] theorem State.answer_responses (o : Except Error Result) : (s.answer o).responses = s.responses ++ [responseOf o] := by
  rw [State.answer_eq]; rfl
@[simp] theorem State.answer_bus (o : Except Error Result) : (s.answer o).bus = s.bus := by
  rw [State.answer_eq]; rfl
@[simp] theorem State.answer_script (o : Except Error Result) : (s.answer o).script = s.script := by
  rw [State.answer_eq]; rfl
@[simp] theorem State.answer_asked (o : Except Error Result) : (s.answer o).asked = s.asked := by
  rw [State.answer_eq]; rfl
@[simp] theorem State.answer_scope (o : Except Error Result) : (s.answer o).scope = s.scope := by
  rw [State.answer_eq]; rfl
@[simp] theorem State.answer_log (o : Except Error Result) : (s.answer o).log = s.log := by
  rw [State.answer_eq]; rfl
@[simp] theorem State.answer_retry (o : Except Error Result) : (s.answer o).retry = s.retry := by
  rw [State.answer_eq]; rfl
@[simp] theorem State.answer_turns (o : Except Error Result) : (s.answer o).turns = s.turns := by
  rw [State.answer_eq]; rfl

@[simp] theorem State.answer_ok (r : Result) : s.answer (.ok r) = s.respond (.ok r) := rfl

@[simp] theorem State.answer_error (e : Error) : s.answer (.error e) = s.respond (.err e) := rfl

theorem State.raise_eq (e : Error) : s.raise e = s.respond (.err e) := rfl

@[simp] theorem responseOf_ok (r : Result) : responseOf (.ok r) = .ok r := rfl

@[simp] theorem responseOf_error (e : Error) : responseOf (.error e) = .err e := rfl

end Sys2Proof.Machine
end

