-- ==== Sys2Proof/Laws/Codec.lean ====
section
/-! SUPPORT. Lemmas of the codec: byte order, the resolution of a field, the assembly of a register
value and the extraction of its fields. -/

namespace Sys2Proof.Machine

/-! ### Byte order -/

/-- Reading on from a value `v`. -/
theorem foldl_be (raw : List Byte) (v : Nat) :
    raw.foldl (fun v b => v * 256 + b.toNat) v = v * 256 ^ raw.length + be raw := by
  induction raw generalizing v with
  | nil => simp [be]
  | cons b rest ih =>
    simp only [be, List.foldl_cons, List.length_cons]
    rw [ih, ih (0 * 256 + b.toNat)]
    ring

theorem be_cons (b : Byte) (rest : List Byte) :
    be (b :: rest) = b.toNat * 256 ^ rest.length + be rest := by
  rw [be, List.foldl_cons, foldl_be]; simp

theorem be_lt (raw : List Byte) : be raw < 256 ^ raw.length := by
  induction raw with
  | nil => simp [be]
  | cons b rest ih =>
    have := b.isLt
    rw [be_cons, List.length_cons, pow_succ]
    nlinarith

@[simp] theorem be_nil : be [] = 0 := rfl

@[simp] theorem be_one (b : Byte) : be [b] = b.toNat := by simp [be]

@[simp] theorem be_two (b0 b1 : Byte) : be [b0, b1] = b0.toNat * 256 + b1.toNat := by simp [be]

theorem bytesOf_one (v : Nat) : bytesOf 1 v = [BitVec.ofNat 8 v] := by
  simp [bytesOf]

theorem bytesOf_two (v : Nat) : bytesOf 2 v = [BitVec.ofNat 8 (v / 256), BitVec.ofNat 8 v] := by
  simp [bytesOf, List.range_succ]

theorem bytesOf_length (n v : Nat) : (bytesOf n v).length = n := by
  simp [bytesOf]

/-! ### Layouts -/

/-- The widths of a layout's items sum to its register's width (10_state.md R25). -/
theorem itemsWidth_layout (l : Layout) : itemsWidth (layoutItems l) = 8 * layoutLen l := by
  cases l <;> rfl

/-- Names are unique within a layout (10_state.md R25). -/
theorem layoutFields_nodup (l : Layout) : (layoutFields l).Nodup := by
  cases l <;> decide

/-- Every width is at least 1 (10_state.md R25). -/
theorem itemWidth_pos (l : Layout) {i : LayoutItem} (h : i ∈ layoutItems l) : 1 ≤ itemWidth i := by
  revert i; cases l <;> decide

theorem mem_itemFields {is : List LayoutItem} {f : Field} :
    f ∈ itemFields is ↔ ∃ w, LayoutItem.field f w ∈ is := by
  induction is with
  | nil => simp [itemFields]
  | cons i rest ih =>
    cases i with
    | field g w => simp [itemFields, ih, exists_or]
    | filler w => simp [itemFields, ih]

/-! ### Resolving a field -/

theorem checkRange_ok {w : Nat} {c : Int} (h0 : 0 ≤ c) (h1 : c < 2 ^ w) :
    checkRange w c = .ok c.toNat := by
  simp [checkRange, h0, h1]

theorem checkRange_error {w : Nat} {c : Int} (h : c < 0 ∨ 2 ^ w ≤ c) :
    checkRange w c = .error .configurationError := by
  have : ¬ (0 ≤ c ∧ c < 2 ^ w) := by rintro ⟨h0, h1⟩; omega
  simp [checkRange, this]

/-- A resolved code fits its field, and the only failure is ConfigurationError. -/
theorem resolveField_spec (t : Tables) (vals : List (Key × Operand)) (f : Field) (w : Nat) :
    (∃ c, c < 2 ^ w ∧ resolveField t vals f w = .ok c) ∨
    resolveField t vals f w = .error .configurationError := by
  have hr : ∀ c : Int, (∃ n, n < 2 ^ w ∧ checkRange w c = .ok n) ∨
      checkRange w c = .error .configurationError := by
    intro c
    by_cases h : 0 ≤ c ∧ c < 2 ^ w
    · refine .inl ⟨c.toNat, ?_, checkRange_ok h.1 h.2⟩
      have := h.2
      zify
      rw [Int.toNat_of_nonneg h.1]
      exact_mod_cast this
    · exact .inr (by simp [checkRange, h])
  unfold resolveField
  split
  · exact .inr rfl
  · exact hr _
  · split
    · exact .inr rfl
    · split
      · exact .inr rfl
      · exact hr _
  · exact .inr rfl

/-! ### Assembling and extracting -/

/-- The value of some items whose fields have the codes `c` and whose fillers are 0
(30_encoding.md R70). -/
def assembled (c : Field → Nat) (is : List LayoutItem) : Nat :=
  match is with
  | [] => 0
  | .filler _ :: rest => assembled c rest
  | .field f _ :: rest => c f * 2 ^ itemsWidth rest + assembled c rest

/-- The codes of some items fit their fields. -/
def codesFit (c : Field → Nat) (is : List LayoutItem) : Prop :=
  ∀ f w, LayoutItem.field f w ∈ is → c f < 2 ^ w

theorem codesFit_tail {c : Field → Nat} {i : LayoutItem} {rest : List LayoutItem}
    (h : codesFit c (i :: rest)) : codesFit c rest :=
  fun f w hm => h f w (List.mem_cons_of_mem _ hm)

theorem assembled_lt {c : Field → Nat} {is : List LayoutItem} (h : codesFit c is) :
    assembled c is < 2 ^ itemsWidth is := by
  induction is with
  | nil => simp [assembled, itemsWidth]
  | cons i rest ih =>
    have ht := ih (codesFit_tail h)
    cases i with
    | filler w =>
      simp only [assembled, itemsWidth, itemWidth, pow_add]
      exact lt_of_lt_of_le ht (Nat.le_mul_of_pos_left _ (by positivity))
    | field f w =>
      have hf := h f w (List.mem_cons_self ..)
      simp only [assembled, itemsWidth, itemWidth, pow_add]
      nlinarith

/-- When every field resolves, ENCODE's loop gives the assembled value below `v`. -/
theorem assemble_ok {t : Tables} {vals : List (Key × Operand)} {c : Field → Nat}
    {is : List LayoutItem}
    (h : ∀ f w, LayoutItem.field f w ∈ is → resolveField t vals f w = .ok (c f)) (v : Nat) :
    assemble t vals is v = .ok (v * 2 ^ itemsWidth is + assembled c is) := by
  induction is generalizing v with
  | nil => simp [assemble, itemsWidth, assembled]
  | cons i rest ih =>
    have ht := ih (fun f w hm => h f w (List.mem_cons_of_mem _ hm))
    cases i with
    | filler w =>
      rw [assemble, ht]
      simp [itemsWidth, itemWidth, assembled, pow_add, mul_assoc]
    | field f w =>
      rw [assemble, h f w (List.mem_cons_self ..)]
      simp only [ht]
      congr 1
      simp only [itemsWidth, itemWidth, assembled, pow_add]
      ring

/-- When some field does not resolve, ENCODE's loop is ConfigurationError. -/
theorem assemble_error {t : Tables} {vals : List (Key × Operand)} {is : List LayoutItem}
    (h : ∃ f w, LayoutItem.field f w ∈ is ∧
      resolveField t vals f w = .error .configurationError) (v : Nat) :
    assemble t vals is v = .error .configurationError := by
  induction is generalizing v with
  | nil => obtain ⟨f, w, hm, -⟩ := h; cases hm
  | cons i rest ih =>
    obtain ⟨f, w, hm, hr⟩ := h
    cases i with
    | filler w' =>
      rw [assemble]
      exact ih ⟨f, w, by simpa using hm, hr⟩ _
    | field g w' =>
      rw [assemble]
      rcases List.mem_cons.1 hm with he | hm'
      · cases he; simp [hr]
      · rcases resolveField_spec t vals g w' with ⟨c, -, hc⟩ | hc
        · simp only [hc]; exact ih ⟨f, w, hm', hr⟩ _
        · simp [hc]

/-- Extraction sees only the bits of the items. -/
theorem unpackItems_mod (is : List LayoutItem) (v : Nat) :
    unpackItems (v % 2 ^ itemsWidth is) is = unpackItems v is := by
  have key : ∀ (is : List LayoutItem) (n : Nat), itemsWidth is ≤ n →
      unpackItems (v % 2 ^ n) is = unpackItems v is := by
    intro is
    induction is with
    | nil => intros; rfl
    | cons i rest ih =>
      intro n hn
      cases i with
      | filler w =>
        simp only [itemsWidth, itemWidth] at hn
        rw [unpackItems, unpackItems, ih n (by omega)]
      | field f w =>
        simp only [itemsWidth, itemWidth] at hn
        rw [unpackItems, unpackItems, ih n (by omega)]
        congr 2
        rw [show n = itemsWidth rest + (n - itemsWidth rest) by omega, pow_add,
          Nat.mod_mul_right_div_self]
        exact Nat.mod_mod_of_dvd _ (pow_dvd_pow 2 (by omega))
  exact key is _ le_rfl

/-- Extraction recovers the codes that were assembled. -/
theorem unpackItems_assembled {c : Field → Nat} {is : List LayoutItem} (h : codesFit c is)
    (v : Nat) :
    unpackItems (v * 2 ^ itemsWidth is + assembled c is) is =
      (itemFields is).map (fun f => (f, c f)) := by
  induction is generalizing v with
  | nil => rfl
  | cons i rest ih =>
    have ht := codesFit_tail h
    cases i with
    | filler w =>
      have e : v * 2 ^ itemsWidth (.filler w :: rest) + assembled c (.filler w :: rest) =
          v * 2 ^ w * 2 ^ itemsWidth rest + assembled c rest := by
        simp [itemsWidth, itemWidth, assembled, pow_add, mul_assoc]
      rw [e, unpackItems, itemFields, ih ht]
    | field f w =>
      have hf := h f w (List.mem_cons_self ..)
      have hl := assembled_lt ht
      have e : v * 2 ^ itemsWidth (.field f w :: rest) + assembled c (.field f w :: rest) =
          (v * 2 ^ w + c f) * 2 ^ itemsWidth rest + assembled c rest := by
        simp only [itemsWidth, itemWidth, assembled, pow_add]; ring
      rw [e, unpackItems, itemFields, ih ht, List.map_cons]
      congr 2
      rw [Nat.add_comm, Nat.add_mul_div_right _ _ (by positivity), Nat.div_eq_of_lt hl, Nat.zero_add,
        Nat.mul_add_mod', Nat.mod_eq_of_lt hf]

end Sys2Proof.Machine
end

