-- ==== Sys2Proof/Laws/Ops.lean ====
section
/-! SUPPORT. For each shared operation of the environment, one lemma that says what it can do: what it
leaves alone and how it extends the bus trace. -/

namespace Sys2Proof.Machine

/-! ### The trace's rules along an append -/

theorem scopeAfter_append (held : Bool) (es fs : List BusEvent) :
    scopeAfter held (es ++ fs) = (scopeAfter held es).bind (fun h => scopeAfter h fs) := by
  induction es generalizing held with
  | nil => rfl
  | cons e rest ih => cases e <;> cases held <;> simp [scopeAfter, ih]

/-- A trace of reads, each of which moved whole registers if it completed. -/
def readsOnly (es : List BusEvent) : Bool :=
  match es with
  | [] => true
  | .read a n x :: rest => transferWhole (.read a n x) && readsOnly rest
  | _ :: _ => false

theorem readsOnly_append (es fs : List BusEvent) :
    readsOnly (es ++ fs) = (readsOnly es && readsOnly fs) := by
  induction es with
  | nil => simp [readsOnly]
  | cons e rest ih => cases e <;> simp [readsOnly, ih, Bool.and_assoc]

theorem scopeAfter_readsOnly (held : Bool) {es : List BusEvent} (h : readsOnly es = true) :
    scopeAfter held es = some held := by
  induction es with
  | nil => rfl
  | cons e rest ih => cases e <;> simp_all [readsOnly, scopeAfter]

theorem all_transferWhole_readsOnly {es : List BusEvent} (h : readsOnly es = true) :
    es.all transferWhole = true := by
  induction es with
  | nil => rfl
  | cons e rest ih => cases e <;> simp_all [readsOnly]

/-! ### Operations that only read the bus -/

/-- `t` is `s` after some reads: nothing the block or the caller sees has changed, and the trace has
grown by reads alone. -/
structure ReadsFrom (s t : State) : Prop where
  tables : t.tables = s.tables
  pending : t.pending = s.pending
  port : t.port = s.port
  responses : t.responses = s.responses
  scope : t.scope = s.scope
  attempts : t.retry.maxAttempts = s.retry.maxAttempts
  caller : t.retry.caller = s.retry.caller
  turns : t.turns = s.turns
  trace : ∃ es, t.bus = s.bus ++ es ∧ readsOnly es = true

theorem ReadsFrom.refl (s : State) : ReadsFrom s s :=
  ⟨rfl, rfl, rfl, rfl, rfl, rfl, rfl, rfl, [], by simp, rfl⟩

theorem ReadsFrom.trans {s t u : State} (h : ReadsFrom s t) (k : ReadsFrom t u) :
    ReadsFrom s u := by
  obtain ⟨es, he, hr⟩ := h.trace
  obtain ⟨fs, hf, hq⟩ := k.trace
  exact ⟨k.tables.trans h.tables, k.pending.trans h.pending, k.port.trans h.port,
    k.responses.trans h.responses, k.scope.trans h.scope, k.attempts.trans h.attempts, k.caller.trans h.caller,
    k.turns.trans h.turns, es ++ fs, by rw [hf, he, List.append_assoc], by rw [readsOnly_append, hr, hq]; rfl⟩

theorem ReadsFrom.tick (s : State) : ReadsFrom s s.tick :=
  ⟨rfl, rfl, rfl, rfl, rfl, rfl, rfl, rfl, [], by simp, rfl⟩

theorem ReadsFrom.logFailure (s : State) (a : BusAddr) : ReadsFrom s (s.logFailure a) :=
  ⟨rfl, rfl, rfl, rfl, rfl, rfl, rfl, rfl, [], by simp, rfl⟩

/-- Drawing an answer changes the script or the counter, and nothing else. -/
theorem nextAnswer_frame (s : State) :
    ∃ sc n, (nextAnswer s).2 = { s with script := sc, asked := n } := by
  unfold nextAnswer
  split
  · exact ⟨_, _, rfl⟩
  · exact ⟨_, _, rfl⟩

/-- A read ends in bytes exactly when it is traced as done, and then their number is the one asked
for. -/
theorem readEnd_done (n : Nat) (a : Answer) :
    (readEnd n a).2 = .done ↔ ∃ raw, raw.length = n ∧ (readEnd n a).1 = .ok raw := by
  cases a with
  | bytes raw => by_cases h : raw.length = n <;> simp [readEnd, h]
  | busError => simp [readEnd]
  | protocolError => simp [readEnd]

/-- One `readRegister` call: one read event, and the frame. -/
theorem readRegister_spec (a : BusAddr) (n : Nat) (s : State) :
    ReadsFrom s (readRegister a n s).2 ∧
    ∃ x, (readRegister a n s).2.bus = s.bus ++ [.read a n x] ∧
      (x = .done ↔ ∃ raw, raw.length = n ∧ (readRegister a n s).1 = .ok raw) := by
  obtain ⟨sc, k, hk⟩ := nextAnswer_frame s
  by_cases h : registerLength a = some n
  · have e : readRegister a n s =
        ((readEnd n (nextAnswer s).1).1, (nextAnswer s).2.event (.read a n (readEnd n (nextAnswer s).1).2)) := by
      simp [readRegister, h]
    rw [e, hk]
    refine ⟨⟨rfl, rfl, rfl, rfl, rfl, rfl, rfl, rfl, _, rfl, ?_⟩, _, rfl, readEnd_done n _⟩
    cases (readEnd n (nextAnswer s).1).2 <;> simp [readsOnly, transferWhole, h]
  · have e : readRegister a n s =
        (.error .protocolError, s.event (.read a n .protocolError)) := by
      simp [readRegister, h]
    rw [e]
    exact ⟨⟨rfl, rfl, rfl, rfl, rfl, rfl, rfl, rfl, _, rfl, rfl⟩, _, rfl, by simp⟩

theorem ReadsFrom.readRegister (a : BusAddr) (n : Nat) (s : State) :
    ReadsFrom s (readRegister a n s).2 :=
  (readRegister_spec a n s).1

theorem readEnd_length (n : Nat) (a : Answer) {raw : List Byte} (h : (readEnd n a).1 = .ok raw) :
    raw.length = n := by
  cases a with
  | bytes b =>
    by_cases hb : b.length = n
    · simp only [readEnd, hb, if_true, Except.ok.injEq] at h
      rw [← h, hb]
    · simp [readEnd, hb] at h
  | busError => simp [readEnd] at h
  | protocolError => simp [readEnd] at h

/-- What a read gives as bytes has the length asked for. -/
theorem readRegister_length (a : BusAddr) (n : Nat) (s : State) {raw : List Byte}
    (h : (Machine.readRegister a n s).1 = .ok raw) : raw.length = n := by
  unfold Machine.readRegister at h
  split at h
  · exact readEnd_length n _ h
  · simp at h

/-- No single read answers RetryExhausted: only the loop does. -/
theorem readRegister_ne_retryExhausted (a : BusAddr) (n : Nat) (s : State) :
    (Machine.readRegister a n s).1 ≠ .error .retryExhausted := by
  have h : ∀ ans : Answer, (readEnd n ans).1 ≠ .error .retryExhausted := by
    intro ans
    cases ans with
    | bytes raw => by_cases h : raw.length = n <;> simp [readEnd, h]
    | busError => simp [readEnd]
    | protocolError => simp [readEnd]
  unfold Machine.readRegister
  split
  · exact h _
  · simp

/-- What the retry loop does with one more attempt. -/
theorem retryLoop_succ (a : BusAddr) (n k : Nat) (s : State) (hc : s.retry.cancelIn ≠ some 0) :
    retryLoop a n (k + 1) s =
      if (Machine.readRegister a n s.tick).1 = .error .busError then
        retryLoop a n k ((Machine.readRegister a n s.tick).2.logFailure a)
      else Machine.readRegister a n s.tick := by
  rcases h : Machine.readRegister a n s.tick with ⟨r, t⟩
  simp only [retryLoop, hc, if_false, h]
  split
  · simp
  · next hr => rw [if_neg (by simpa using hr)]

theorem retryLoop_cancelled (a : BusAddr) (n k : Nat) (s : State)
    (hc : s.retry.cancelIn = some 0) :
    retryLoop a n (k + 1) s = (.error .cancelled, s) := by
  simp [retryLoop, hc]

/-- The retry loop only reads, and what it answers as bytes has the length asked for. -/
theorem retryLoop_spec (a : BusAddr) (n k : Nat) (s : State) :
    ReadsFrom s (retryLoop a n k s).2 ∧
    ∀ raw, (retryLoop a n k s).1 = .ok raw → raw.length = n := by
  induction k generalizing s with
  | zero => exact ⟨ReadsFrom.refl s, by simp [retryLoop]⟩
  | succ k ih =>
    by_cases hc : s.retry.cancelIn = some 0
    · rw [retryLoop_cancelled a n k s hc]
      exact ⟨ReadsFrom.refl s, by simp⟩
    · rw [retryLoop_succ a n k s hc]
      obtain ⟨hf, x, -, hx⟩ := readRegister_spec a n s.tick
      have h1 := (ReadsFrom.tick s).trans hf
      split
      · obtain ⟨h2, h3⟩ := ih ((Machine.readRegister a n s.tick).2.logFailure a)
        exact ⟨(h1.trans (ReadsFrom.logFailure _ a)).trans h2, h3⟩
      · refine ⟨h1, fun raw hr => ?_⟩
        exact readRegister_length a n s.tick hr

theorem readWithRetry_spec (a : BusAddr) (n : Nat) (s : State) :
    ReadsFrom s (readWithRetry a n s).2 ∧
    ∀ raw, (readWithRetry a n s).1 = .ok raw → raw.length = n :=
  retryLoop_spec a n _ s

/-- The reads of a composite only read, and give one byte per register. -/
theorem readEach_spec (as : List BusAddr) (s : State) :
    ReadsFrom s (readEach as s).2 ∧
    ∀ raw, (readEach as s).1 = .ok raw → raw.length = as.length := by
  induction as generalizing s with
  | nil => exact ⟨ReadsFrom.refl s, by simp [readEach]⟩
  | cons a rest ih =>
    obtain ⟨h1, hl⟩ := readWithRetry_spec a 1 s
    rcases hr : readWithRetry a 1 s with ⟨r, t⟩
    rw [hr] at h1 hl
    cases r with
    | error e => simpa [readEach, hr] using h1
    | ok raw =>
      obtain ⟨h2, hm⟩ := ih t
      rcases hq : readEach rest t with ⟨q, u⟩
      rw [hq] at h2 hm
      cases q with
      | error e => simpa [readEach, hr, hq] using h1.trans h2
      | ok more =>
        refine ⟨by simpa [readEach, hr, hq] using h1.trans h2, ?_⟩
        simp only [readEach, hr, hq, Except.ok.injEq, List.length_cons]
        rintro _ rfl
        rw [List.length_append, hl raw rfl, hm more rfl, Nat.add_comm]

/-- A composite read: everything but the trace, the script, the log and the retry arguments is as
before, the scope is released, and the reads stand between its two ends. -/
theorem readComposite_spec (as : List BusAddr) (s : State) :
    ∃ es, readsOnly es = true ∧
      (readComposite as s).2.bus = s.bus ++ ([.enterScope] ++ es ++ [.leaveScope]) ∧
      (readComposite as s).2.tables = s.tables ∧
      (readComposite as s).2.pending = s.pending ∧
      (readComposite as s).2.port = s.port ∧
      (readComposite as s).2.responses = s.responses ∧
      (readComposite as s).2.scope = false ∧
      ∀ raw, (readComposite as s).1 = .ok raw → raw.length = as.length := by
  obtain ⟨h, hl⟩ := readEach_spec as s.enterScope
  obtain ⟨es, he, hr⟩ := h.trace
  refine ⟨es, hr, ?_, h.tables, h.pending, h.port, h.responses, rfl, hl⟩
  show (readEach as s.enterScope).2.bus ++ [.leaveScope] = _
  rw [he]; simp

/-! ### Writes -/

/-- One `writeRegister` call: one write event, acknowledged exactly when traced as done. -/
theorem writeRegister_spec (a : BusAddr) (raw : List Byte) (s : State) :
    ∃ x sc n, (writeRegister a raw s).2 =
        { s with script := sc, asked := n, bus := s.bus ++ [.write a raw x] } ∧
      (x = .done ↔ (writeRegister a raw s).1 = .ok ()) ∧
      (x = .done → registerLength a = some raw.length) := by
  obtain ⟨sc, k, hk⟩ := nextAnswer_frame s
  by_cases h : registerLength a = some raw.length
  · rcases hA : nextAnswer s with ⟨ans, t⟩
    rw [hA] at hk
    subst hk
    cases ans with
    | bytes b => exact ⟨.done, sc, k, by simp [writeRegister, h, hA, State.event], by simp [writeRegister, h, hA], fun _ => h⟩
    | busError => exact ⟨.busError, sc, k, by simp [writeRegister, h, hA, State.event], by simp [writeRegister, h, hA], fun _ => h⟩
    | protocolError => exact ⟨.busError, sc, k, by simp [writeRegister, h, hA, State.event], by simp [writeRegister, h, hA], fun _ => h⟩
  · exact ⟨.protocolError, s.script, s.asked, by simp [writeRegister, h, State.event], by simp [writeRegister, h], by simp⟩

/-- A write and its response. -/
theorem writeAnd_spec (s : State) (a : BusAddr) (raw : List Byte) :
    ∃ x sc n r, s.writeAnd a raw =
        { s with script := sc, asked := n, bus := s.bus ++ [.write a raw x],
                 port := PortInputs.idle, responses := s.responses ++ [r] } ∧
      (x = .done ↔ r = .ok .ack) ∧ (x = .done → registerLength a = some raw.length) := by
  obtain ⟨x, sc, n, hs, hx, hl⟩ := writeRegister_spec a raw s
  rcases hw : writeRegister a raw s with ⟨r, t⟩
  rw [hw] at hs hx
  cases r with
  | ok u => exact ⟨x, sc, n, .ok .ack, by simp only [State.writeAnd, hw]; rw [show t = _ from hs]; rfl,
      by simpa using hx, hl⟩
  | error e => exact ⟨x, sc, n, .err e, by simp only [State.writeAnd, hw]; rw [show t = _ from hs]; rfl,
      by simpa using hx, hl⟩

/-- An access to the bus: it goes on where the scope is released, and is blocked where it is held. -/
theorem unlessScope_spec (s : State) (k : Host.Outcome State Fault Refusal) :
    (s.scope = false ∧ s.unlessScope k = k) ∨
    (s.scope = true ∧ s.unlessScope k = .fault .scopeHeld) := by
  cases h : s.scope <;> simp [State.unlessScope, h]

@[simp] theorem busWrite_released {s : State} (h : s.scope = false) (a : BusAddr) (raw : List Byte) :
    s.busWrite a raw = .next (s.writeAnd a raw) := by
  simp [State.busWrite, State.unlessScope, h]

/-- Encoding and writing: either one write of what ENCODE gave, or ENCODE's error and no access. -/
theorem encodeAndWrite_spec (s : State) (l : Nat) (vals : List (Key × Operand)) (a : BusAddr) :
    (∃ raw, encodeOp s.tables l vals = .ok raw ∧ s.encodeAndWrite l vals a = s.busWrite a raw) ∨
    (∃ e, encodeOp s.tables l vals = .error e ∧
      s.encodeAndWrite l vals a = .next (s.respond (.err e))) := by
  unfold State.encodeAndWrite
  cases h : encodeOp s.tables l vals with
  | ok raw => exact .inl ⟨raw, rfl, rfl⟩
  | error e => exact .inr ⟨e, rfl, rfl⟩

/-! ### Reads in turns -/

/-- What goes ahead of a caller's item: the first items of the queue, none of them that caller's. -/
theorem itemsAhead_spec (p n : Nat) (w : List Item) :
    itemsAhead p n w ++ w.drop (itemsAhead p n w).length = w ∧ ∀ j ∈ itemsAhead p n w, j.caller ≠ p := by
  constructor
  · exact List.prefix_iff_eq_append.mp
      ((List.takeWhile_prefix _).trans (List.take_prefix n w))
  · intro j hj
    simpa using List.mem_takeWhile_imp hj

/-- A retry loop cut after `j` attempts: where they are used up, the rest goes on from there; where
they are not, the rest does not run. -/
theorem retryLoop_add (a : BusAddr) (n j k : Nat) (s : State) :
    retryLoop a n (j + k) s =
      if (retryLoop a n j s).1 = .error .retryExhausted then retryLoop a n k (retryLoop a n j s).2
      else retryLoop a n j s := by
  induction j generalizing s with
  | zero => simp [retryLoop]
  | succ j ih =>
    rw [Nat.succ_add]
    by_cases hc : s.retry.cancelIn = some 0
    · simp [retryLoop_cancelled _ _ _ _ hc]
    · rw [retryLoop_succ _ _ _ _ hc, retryLoop_succ _ _ _ _ hc]
      split
      · exact ih _
      · rw [if_neg (readRegister_ne_retryExhausted a n _)]

/-- A read in turns: after some reads it ends with one response, or it waits for its next turn with the
attempts that are left. -/
theorem readInTurns_spec (s : State) (a : BusAddr) (n : Nat) (c : Call)
    (finish : List Byte → Except Error Result) :
    ∃ t, ReadsFrom s.takeTurn t ∧
      ((∃ r, s.readInTurns a n c finish = t.respond r) ∨
       (s.turn.attempts < s.retry.maxAttempts ∧
        s.readInTurns a n c finish = t.overtaken s.turn.ahead
          (.call ⟨s.retry.maxAttempts - s.turn.attempts, t.retry.cancelIn, s.retry.caller⟩ c))) := by
  obtain ⟨h, -⟩ := retryLoop_spec a n (min s.turn.attempts s.retry.maxAttempts) s.takeTurn
  rcases hr : retryLoop a n (min s.turn.attempts s.retry.maxAttempts) s.takeTurn with ⟨r, t⟩
  rw [hr] at h
  refine ⟨t, h, ?_⟩
  simp only [State.readInTurns, hr]
  split
  · next hd => exact .inr ⟨by simpa using hd, by rw [h.caller, State.takeTurn_retry]⟩
  · exact .inl ⟨_, State.answer_eq _ _⟩

/-- With no turn left the read makes all its attempts. -/
theorem readInTurns_alone {s : State} (h : s.turns = []) (a : BusAddr) (n : Nat) (c : Call)
    (finish : List Byte → Except Error Result) :
    s.readInTurns a n c finish =
      (readWithRetry a n s).2.answer ((readWithRetry a n s).1.bind finish) := by
  have ht : s.takeTurn = s := by cases s; simp_all [State.takeTurn]
  simp [State.readInTurns, State.turn, h, ht, readWithRetry]

end Sys2Proof.Machine
end

