-- ==== Sys2Proof/Laws/PerInstr.lean ====
section
/-! SUPPORT. The per-instruction family EncodedLength: the word of an instruction has its source's
byte count, which is a property of the register and not of the word (30_encoding.md R60, R81). -/

namespace Sys2Proof.Laws.EncodedLength

/-- The byte count of a source's words (30_encoding.md R60, R74). -/
def sourceLength (src : Source) : Nat :=
  match src with
  | .requestPort => 1
  | .register .alsConf => 2
  | .register .alsWh => 2
  | .register .alsWl => 2
  | .register .psm => 1
  | .register .alsInt => 2
  | .register .ambient => 2
  | .register .white => 2
  | .register .pressure => 3
  | .register .temperature => 2
  | .register .command => 1

/-- The word of `i` has the byte count of its source. -/
def Statement (i : Instr) : Prop :=
  (encode i).length = sourceLength (sourceOf i)

theorem encode : ∀ l, Statement (.encode l) := fun _ => rfl

theorem unpack : ∀ l, Statement (.unpack l) := fun _ => rfl

theorem decflags : ∀ l, Statement (.decflags l) := fun _ => rfl

theorem decp24 : ∀ x, Statement (.decp24 x) := fun _ => rfl

theorem dect16 : ∀ x, Statement (.dect16 x) := fun _ => rfl

theorem decu16 : ∀ x, Statement (.decu16 x) := fun _ => rfl

theorem tolux : ∀ x r, Statement (.tolux x r) := fun _ _ => rfl

theorem lookup : ∀ f, Statement (.lookup f) := fun _ => rfl

theorem lkrefresh : ∀ x, Statement (.lkrefresh x) := fun _ => rfl

theorem modecmd : ∀ m, Statement (.modecmd m) := fun _ => rfl

theorem fmtAlsConf : ∀ gain it pers intEn sd, Statement (.fmtAlsConf gain it pers intEn sd) := fun _ _ _ _ _ => rfl

theorem fmtAlsWh : ∀ msb lsb, Statement (.fmtAlsWh msb lsb) := fun _ _ => rfl

theorem fmtAlsWl : ∀ msb lsb, Statement (.fmtAlsWl msb lsb) := fun _ _ => rfl

theorem fmtPsm : ∀ mode en, Statement (.fmtPsm mode en) := fun _ _ => rfl

theorem fmtAlsInt : ∀ low high, Statement (.fmtAlsInt low high) := fun _ _ => rfl

theorem fmtCmd : ∀ c, Statement (.fmtCmd c) := fun _ => rfl

theorem fmtP24 : ∀ v, Statement (.fmtP24 v) := fun _ => rfl

theorem fmtT16 : ∀ v, Statement (.fmtT16 v) := fun _ => rfl

theorem fmtU16 : ∀ white v, Statement (.fmtU16 white v) := by
  intro white v; cases white <;> rfl

theorem cmdCombined : Statement (.cmdCombined) := rfl

theorem cmdSingleTemperature : Statement (.cmdSingleTemperature) := rfl

theorem cmdSinglePressure : Statement (.cmdSinglePressure) := rfl

theorem cmdDormant63ms : Statement (.cmdDormant63ms) := rfl

theorem cmdDormant125ms : Statement (.cmdDormant125ms) := rfl

theorem cmdDormant1s : Statement (.cmdDormant1s) := rfl

end Sys2Proof.Laws.EncodedLength
end

