-- ==== Sys2Proof/Tests/Slice0.lean ====
section
/-! SUPPORT. Tests of the model against the spec's own vectors (95_test_vectors.md; each test's docstring
names its row), and one witness per statement that has hypotheses: a concrete state and operands that
meet all of them. -/

namespace Sys2Proof.Tests

open Sys2Proof Sys2Proof.Machine

/-! ### Helpers -/

/-- Request lines with these raw bytes and no operand. -/
def rawPort (raw : List Byte) : PortInputs :=
  { PortInputs.idle with nbytes := BitVec.ofNat 2 raw.length, b0 := raw.getD 0 0,
                         b1 := raw.getD 1 0, b2 := raw.getD 2 0 }

/-- A slot with an integer code. -/
def codeSlot (n : Nat) : Slot := ⟨true, false, BitVec.ofNat 16 n⟩

/-- A slot with a name index. -/
def nameSlot (n : Nat) : Slot := ⟨true, true, BitVec.ofNat 16 n⟩

/-- Request lines with these slots, the rest absent. -/
def slotPort (sl : List Slot) : PortInputs :=
  { PortInputs.idle with slot0 := sl.getD 0 Slot.absent, slot1 := sl.getD 1 Slot.absent,
                         slot2 := sl.getD 2 Slot.absent, slot3 := sl.getD 3 Slot.absent,
                         slot4 := sl.getD 4 Slot.absent }

/-- The example tables, the given request lines, five attempts. -/
def onPort (p : PortInputs) : State :=
  { State.reset with tables := Config.tablesExample, port := p, retry := ⟨5, none, 0⟩ }

/-- One pending item and Transport's scripted answers. -/
def queued (i : Item) (script : List Answer) : State :=
  { onPort PortInputs.idle with pending := [i], script := script }

/-- The responses after an outcome. -/
def answers (o : Host.Outcome State Fault Refusal) : List Response :=
  match o with
  | .next t => t.responses
  | _ => []

/-- The bus trace after an outcome. -/
def trace (o : Host.Outcome State Fault Refusal) : List BusEvent :=
  match o with
  | .next t => t.bus
  | _ => []

/-! ### Decoding: words written out from the encodings of spec/opcode_table.json -/

/-- `0001ssss`, `0010ssss`, `0011ssss`. -/
theorem test_decode_codec :
    decode .requestPort [0b00010000#8] = .ok (.encode ⟨0b0000#4⟩) ∧
    decode .requestPort [0b00100110#8] = .ok (.unpack ⟨0b0110#4⟩) ∧
    decode .requestPort [0b00110011#8] = .ok (.decflags ⟨0b0011#4⟩) := by decide

/-- `0100----`, `0101----`, `0110----`, `0111--rr`. -/
theorem test_decode_measurement :
    decode .requestPort [0b01001001#8] = .ok (.decp24 0b1001#4) ∧
    decode .requestPort [0b01010000#8] = .ok (.dect16 0b0000#4) ∧
    decode .requestPort [0b01101111#8] = .ok (.decu16 0b1111#4) ∧
    decode .requestPort [0b01111001#8] = .ok (.tolux 0b10#2 0b01#2) := by decide

/-- `1000ffff`, `1001----`, `1010mmmm`; F26 to F28: the undefined codes. -/
theorem test_decode_tables :
    decode .requestPort [0b10000001#8] = .ok (.lookup ⟨0b0001#4⟩) ∧
    decode .requestPort [0b10010000#8] = .ok (.lkrefresh 0b0000#4) ∧
    decode .requestPort [0b10100101#8] = .ok (.modecmd ⟨0b0101#4⟩) ∧
    decode .requestPort [0x00#8] = .error .illegalRequest ∧
    decode .requestPort [0x07#8] = .error .illegalRequest ∧
    decode .requestPort [0xB0#8] = .error .illegalRequest := by decide

/-- ALS_CONF `---gg-iiiipp--es`, with every filler bit set in the second word. -/
theorem test_decode_fmt_als_conf :
    decode (.register .alsConf) [0b00010000#8, 0b11010001#8] = .ok (.fmtAlsConf 2 3 1 0 1) ∧
    decode (.register .alsConf) [0b11111100#8, 0b00001110#8] = .ok (.fmtAlsConf 3 0 0 1 0) := by decide

/-- The windows, PSM `-----mme`, ALS_INT `lh--------------`. -/
theorem test_decode_fmt_short :
    decode (.register .alsWh) [0x12#8, 0x34#8] = .ok (.fmtAlsWh 0x12#8 0x34#8) ∧
    decode (.register .alsWl) [0x00#8, 0x64#8] = .ok (.fmtAlsWl 0x00#8 0x64#8) ∧
    decode (.register .psm) [0b11111101#8] = .ok (.fmtPsm 2 1) ∧
    decode (.register .alsInt) [0b01000000#8, 0b11111111#8] = .ok (.fmtAlsInt 0 1) := by decide

/-- P24, T16, U16 and a byte of the command register that no mode has. -/
theorem test_decode_fmt_measurement :
    decode (.register .pressure) [0xFF#8, 0x00#8, 0x01#8] = .ok (.fmtP24 0xFF0001#24) ∧
    decode (.register .temperature) [0x80#8, 0x01#8] = .ok (.fmtT16 0x8001#16) ∧
    decode (.register .ambient) [0x64#8, 0x00#8] = .ok (.fmtU16 false 0x6400#16) ∧
    decode (.register .white) [0x00#8, 0x64#8] = .ok (.fmtU16 true 0x0064#16) ∧
    decode (.register .command) [0x0B#8] = .ok (.fmtCmd 0x0B#8) := by decide

/-- The six command bytes (T8 to T13). -/
theorem test_decode_commands :
    decode (.register .command) [0x0A#8] = .ok .cmdCombined ∧
    decode (.register .command) [0x08#8] = .ok .cmdSingleTemperature ∧
    decode (.register .command) [0x09#8] = .ok .cmdSinglePressure ∧
    decode (.register .command) [0x1B#8] = .ok .cmdDormant63ms ∧
    decode (.register .command) [0x2B#8] = .ok .cmdDormant125ms ∧
    decode (.register .command) [0xFB#8] = .ok .cmdDormant1s := by decide

/-- A word of the wrong byte count decodes to nothing, by name. -/
theorem test_decode_malformed :
    decode (.register .alsConf) [0x03#8] = .error .malformedLength ∧
    decode (.register .psm) [0x00#8, 0x00#8] = .error .malformedLength := by decide

/-- WellFormed's one check refuses an ill-formed term: a defined command byte is not fmt.CMD's. -/
theorem test_wellFormed_refuses_defined_command_as_fmtCmd :
    wellFormed (.fmtCmd 0x0A#8) = false ∧ wellFormed (.fmtCmd 0xFB#8) = false ∧
    wellFormed (.fmtCmd 0x0B#8) = true := by decide

/-! ### The codec -/

/-- E2, E4 and S1, S2: names and codes; every field at its maximum. -/
theorem test_encode :
    answers (exec (.encode ⟨0⟩) (onPort (slotPort
      [nameSlot 0, nameSlot 0, codeSlot 0, codeSlot 0, codeSlot 0]))) = [.ok (.bytes [0x03, 0x00])] ∧
    answers (exec (.encode ⟨0⟩) (onPort (slotPort
      [codeSlot 3, codeSlot 15, codeSlot 3, codeSlot 1, codeSlot 1]))) =
      [.ok (.bytes [0x1B, 0xF3])] := by decide

/-- F1, F6, F8, F9 and F14: the errors of ENCODE. -/
theorem test_encode_errors :
    answers (exec (.encode ⟨0⟩) (onPort (slotPort
      [codeSlot 0, codeSlot 16, codeSlot 0, codeSlot 0, codeSlot 0]))) =
      [.err .configurationError] ∧
    answers (exec (.encode ⟨0⟩) (onPort (slotPort
      [codeSlot 0, codeSlot 0, codeSlot 0, codeSlot 0]))) = [.err .configurationError] ∧
    answers (exec (.encode ⟨3⟩) (onPort (slotPort [codeSlot 1, codeSlot 1, codeSlot 0]))) =
      [.err .configurationError] ∧
    answers (exec (.encode ⟨0⟩) (onPort (slotPort
      [nameSlot 1, codeSlot 0, codeSlot 0, codeSlot 0, codeSlot 0]))) =
      [.err .configurationError] ∧
    answers (exec (.encode ⟨4⟩) (onPort (slotPort [codeSlot 0, codeSlot 16]))) =
      [.err .unknownRegisterError] := by decide

/-- K6 and K12. -/
theorem test_unpack :
    answers (exec (.unpack ⟨0⟩) (onPort (rawPort [0x0B, 0x22]))) =
      [.ok (.fields ⟨some 1, some 12, some 2, some 1, some 0⟩)] ∧
    answers (exec (.unpack ⟨3⟩) (onPort (rawPort [0xFD]))) =
      [.ok (.fields ⟨some 2, some 1, none, none, none⟩)] := by decide

/-- F15 and F20: the errors of UNPACK and their order. -/
theorem test_unpack_errors :
    answers (exec (.unpack ⟨0⟩) (onPort (rawPort [0x03]))) = [.err .protocolError] ∧
    answers (exec (.unpack ⟨5⟩) (onPort (rawPort [0x00]))) = [.err .unknownRegisterError] := by decide

/-- K15 and K6 as DECFLAGS. -/
theorem test_decflags :
    answers (exec (.decflags ⟨6⟩) (onPort (rawPort [0x40, 0xFF]))) =
      [.ok (.fields ⟨some 0, some 1, none, none, none⟩)] ∧
    answers (exec (.decflags ⟨0⟩) (onPort (rawPort [0x0B, 0x22]))) =
      [.ok (.fields ⟨some 1, some 0, none, none, none⟩)] := by decide

/-- F21 and F22. -/
theorem test_decflags_errors :
    answers (exec (.decflags ⟨6⟩) (onPort (rawPort [0x40]))) = [.err .protocolError] ∧
    answers (exec (.decflags ⟨0xF⟩) (onPort (rawPort [0x00, 0x00]))) =
      [.err .unknownRegisterError] := by decide

/-! ### The measurement decoder -/

/-- P6, P7, P9 and F23. -/
theorem test_decp24 :
    answers (exec (.decp24 0) (onPort (rawPort [0x7F, 0xFF, 0xFF]))) = [.ok (.res 0x007FFFFF)] ∧
    answers (exec (.decp24 0) (onPort (rawPort [0x80, 0x00, 0x00]))) = [.ok (.res 0xFF800000)] ∧
    answers (exec (.decp24 0) (onPort (rawPort [0xFF, 0x00, 0x00]))) = [.ok (.res 0xFFFF0000)] ∧
    answers (exec (.decp24 0) (onPort (rawPort [0xFF, 0x00]))) = [.err .protocolError] := by decide +kernel

/-- Q4, Q6, Q8 and F24. -/
theorem test_dect16 :
    answers (exec (.dect16 0) (onPort (rawPort [0x19, 0x80]))) = [.ok (.res 0x00001980)] ∧
    answers (exec (.dect16 0) (onPort (rawPort [0x80, 0x00]))) = [.ok (.res 0xFFFF8000)] ∧
    answers (exec (.dect16 0) (onPort (rawPort [0xE7, 0x00]))) = [.ok (.res 0xFFFFE700)] ∧
    answers (exec (.dect16 0) (onPort (rawPort [0x80, 0x00, 0x00]))) = [.err .protocolError] := by
  decide +kernel

/-- V3, V5 and F25. -/
theorem test_decu16 :
    answers (exec (.decu16 0) (onPort (rawPort [0x64, 0x00]))) = [.ok (.res 0x00006400)] ∧
    answers (exec (.decu16 0) (onPort (rawPort [0x80, 0x00]))) = [.ok (.res 0x00008000)] ∧
    answers (exec (.decu16 0) (onPort (rawPort [0x64]))) = [.err .protocolError] := by decide

/-- X1, X8 and X10. -/
theorem test_tolux :
    answers (exec (.tolux 0 0) (onPort (slotPort [codeSlot 100]))) = [.ok (.res 28800)] ∧
    answers (exec (.tolux 0 1) (onPort (slotPort [codeSlot 12345]))) = [.ok (.res 1777680)] ∧
    answers (exec (.tolux 0 0) (onPort (slotPort [codeSlot 65535]))) =
      [.ok (.res 0x011FFEE0)] := by decide

/-- S7: 100 counts at 0.0288 lux per count are 2.88 lux. -/
theorem test_tolux_exact : toluxOp 100 0 = 288 / 100 := by
  simp [toluxOp, resolution]; norm_num

/-! ### The table operations -/

/-- T1, T2, T3 and T5. -/
theorem test_lookup :
    answers (exec (.lookup ⟨0⟩) (onPort (slotPort [nameSlot 0]))) =
      [.ok (.fields ⟨some 0, none, none, none, none⟩)] ∧
    answers (exec (.lookup ⟨1⟩) (onPort (slotPort [nameSlot 0]))) =
      [.ok (.fields ⟨some 12, none, none, none, none⟩)] ∧
    answers (exec (.lookup ⟨0⟩) (onPort (slotPort [nameSlot 1]))) = [.err .unknownOptionError] ∧
    answers (exec (.lookup ⟨7⟩) (onPort (slotPort [nameSlot 0]))) = [.err .unknownOptionError] := by
  decide

/-- T6 on the example tables, and T7. -/
theorem test_lkrefresh :
    answers (exec (.lkrefresh 0) (onPort (slotPort [nameSlot 1]))) =
      [.ok (.fields ⟨some 0, some 1, none, none, none⟩)] ∧
    answers (exec (.lkrefresh 0) (onPort (slotPort [nameSlot 2]))) =
      [.err .unsupportedRefreshTimeError] := by decide

/-- T10 and T14. -/
theorem test_modecmd :
    answers (exec (.modecmd ⟨2⟩) (onPort PortInputs.idle)) = [.ok (.bytes [0x09])] ∧
    answers (exec (.modecmd ⟨6⟩) (onPort PortInputs.idle)) = [.err .configurationError] := by decide

/-! ### Words on the bus -/

/-- Program 1, step 4, and the row E17's byte: written words, acknowledged and failed. -/
theorem test_written_words :
    trace (exec (.fmtAlsConf 0 12 0 0 0) { onPort PortInputs.idle with script := [.bytes []] }) =
      [.write ⟨0x10, 0x00⟩ [0x03, 0x00] .done] ∧
    trace (exec (.fmtAlsWh 0x12 0x34) { onPort PortInputs.idle with script := [.bytes []] }) =
      [.write ⟨0x10, 0x01⟩ [0x12, 0x34] .done] ∧
    trace (exec (.fmtAlsWl 0x00 0x64) { onPort PortInputs.idle with script := [.bytes []] }) =
      [.write ⟨0x10, 0x02⟩ [0x00, 0x64] .done] ∧
    answers (exec (.fmtPsm 1 1) { onPort PortInputs.idle with script := [.busError, .bytes []] }) =
      [.err .busError] ∧
    trace (exec (.fmtPsm 1 1) { onPort PortInputs.idle with script := [.busError, .bytes []] }) =
      [.write ⟨0x10, 0x03⟩ [0x03] .busError] := by decide

/-- K15, P9, Q6 and V5 as register words. -/
theorem test_read_words :
    answers (exec (.fmtAlsInt 0 1) (onPort PortInputs.idle)) =
      [.ok (.fields ⟨some 0, some 1, none, none, none⟩)] ∧
    answers (exec (.fmtP24 0xFF0000) (onPort PortInputs.idle)) = [.ok (.res 0xFFFF0000)] ∧
    answers (exec (.fmtT16 0x8000) (onPort PortInputs.idle)) = [.ok (.res 0xFFFF8000)] ∧
    answers (exec (.fmtU16 true 0x8000) (onPort PortInputs.idle)) = [.ok (.res 0x00008000)] := by
  decide +kernel

/-- T8 to T13 and Program 6, step 7: the command bytes reach PT register 0x30. -/
theorem test_commands :
    ([.cmdCombined, .cmdSingleTemperature, .cmdSinglePressure, .cmdDormant63ms, .cmdDormant125ms,
      .cmdDormant1s, .fmtCmd 0x77].map (fun i =>
        trace (exec i { onPort PortInputs.idle with script := [.bytes []] }))) =
      [0x0A, 0x08, 0x09, 0x1B, 0x2B, 0xFB, 0x77].map (fun b =>
        [BusEvent.write ⟨0x6D, 0x30⟩ [b] .done]) := by decide

/-! ### The step and the environment -/

/-- F26 and T9 through the step. -/
theorem test_step_request :
    answers (step (queued (.request 0 ⟨0x00, PortInputs.idle⟩) [])) = [.err .illegalRequest] ∧
    answers (step (queued (.request 0 ⟨0xA1, PortInputs.idle⟩) [])) = [.ok (.bytes [0x08])] := by decide

/-- A bare word of the table, placed and run as the first instruction. -/
theorem test_withFetchWord :
    answers (step ((onPort PortInputs.idle).withFetchWord 8 0xA1)) = [.ok (.bytes [0x08])] ∧
    answers (step ((onPort PortInputs.idle).withFetchWord 24 0xFF0000)) =
      [.ok (.res 0xFFFF0000)] := by decide +kernel

/-- Program 2: three one-byte reads in one scope. -/
theorem test_getPressure_trace :
    trace (step (queued (.call ⟨5, none, 0⟩ (.getPressure none))
      [.bytes [0xFF], .bytes [0x00], .bytes [0x00]])) =
      [.enterScope, .read ⟨0x6D, 0x06⟩ 1 .done, .read ⟨0x6D, 0x07⟩ 1 .done,
       .read ⟨0x6D, 0x08⟩ 1 .done, .leaveScope] := by decide

/-- Program 6: three transient errors on the first byte, then success. -/
theorem test_getTemperature_trace :
    trace (step (queued (.call ⟨5, none, 0⟩ (.getTemperature none))
      [.busError, .busError, .busError, .bytes [0x80], .bytes [0x00]])) =
      [.enterScope, .read ⟨0x6D, 0x09⟩ 1 .busError, .read ⟨0x6D, 0x09⟩ 1 .busError,
       .read ⟨0x6D, 0x09⟩ 1 .busError, .read ⟨0x6D, 0x09⟩ 1 .done, .read ⟨0x6D, 0x0A⟩ 1 .done,
       .leaveScope] := by decide

/-- A2, A6 and A8: the attempt counts, and a count read. -/
theorem test_retry :
    answers (step (queued (.call ⟨5, none, 0⟩ .getWhiteCount)
      [.busError, .busError, .busError, .busError, .busError])) = [.err .retryExhausted] ∧
    answers (step (queued (.call ⟨5, none, 0⟩ .getWhiteCount) [.busError, .protocolError])) =
      [.err .protocolError] ∧
    answers (step (queued (.call ⟨3, none, 0⟩ .getWhiteCount)
      [.busError, .busError, .busError, .bytes [0x00, 0x64]])) = [.err .retryExhausted] ∧
    answers (step (queued (.call ⟨5, none, 0⟩ .getWhiteCount) [.bytes [0x00, 0x64]])) =
      [.ok (.count 100)] := by decide

/-- Program 5: a rejected configuration leaves the bus untouched. -/
theorem test_setConfig_rejected :
    trace (step (queued (.call ⟨5, none, 0⟩ (.setConfig
      [(.field .gain, .code 0), (.field .it, .code 16), (.field .pers, .code 0),
       (.field .intEn, .code 0), (.field .sd, .code 0)])) [.bytes []])) = [] ∧
    answers (step (queued (.call ⟨5, none, 0⟩ (.setConfig
      [(.field .gain, .code 0), (.field .it, .code 16), (.field .pers, .code 0),
       (.field .intEn, .code 0), (.field .sd, .code 0)])) [.bytes []])) =
      [.err .configurationError] := by decide

/-- R50: an overtaken read waits behind another caller's write, with the attempt that is left. -/
theorem test_overtaken_read :
    (match step { queued (.call ⟨2, none, 0⟩ .getWhiteCount) [.busError] with
        pending := [.call ⟨2, none, 0⟩ .getWhiteCount, .word 1 .psm [0x07]], turns := [⟨1, 1⟩] } with
      | .next t => t.pending
      | _ => []) = [.word 1 .psm [0x07], .call ⟨1, none, 0⟩ .getWhiteCount] := by decide

/-- D24: the caller's own later write does not go ahead of its read, nor does what stands behind it. -/
theorem test_own_item_stays_behind :
    itemsAhead 0 3 [.word 1 .psm [0x07], .word 0 .psm [0x01], .word 1 .psm [0x03]] =
      [.word 1 .psm [0x07]] := by decide

/-- R190, D27: a reset during T9's operation loses its response; the next request is answered. -/
theorem test_reset_loses_a_response :
    answers (Host.Core.run Sys2Proof.core 2 { onPort PortInputs.idle with
      pending := [.reset 0 (some ⟨0xA1, PortInputs.idle⟩), .request 0 ⟨0xA2, PortInputs.idle⟩] }) =
      [.ok (.bytes [0x09])] := by decide

/-- R193: a scope that is not released blocks a write. -/
theorem test_held_scope_blocks_a_write :
    step { queued (.word 1 .command [0x0A]) [.bytes []] with scope := true } = .fault .scopeHeld := rfl

/-! ### Witnesses: states and operands that meet the hypotheses of the statements -/

/-- DecodeOfEncode. -/
theorem witness_DecodeOfEncode :
    wellFormed (.fmtCmd 0x00) = true ∧ wellFormed (.fmtCmd 0xFF) = true ∧
    wellFormed (.encode ⟨0xF⟩) = true ∧ wellFormed (.fmtAlsConf 3 15 3 1 1) = true := by decide

/-- StepRunsTheOldestItem, each clause. -/
theorem witness_StepRunsTheOldestItem :
    ((queued (.request 0 ⟨0xAF, PortInputs.idle⟩) []).pending = [.request 0 ⟨0xAF, PortInputs.idle⟩] ∧
      decode .requestPort [0xAF] = .ok (.modecmd ⟨0xF⟩)) ∧
    ((queued (.word 1 .psm [0x07]) []).pending = [.word 1 .psm [0x07]] ∧
      decode (.register .psm) [0x07] = .ok (.fmtPsm 3 1)) ∧
    (queued (.call ⟨1, none, 0⟩ .getWhiteCount) []).pending = [.call ⟨1, none, 0⟩ .getWhiteCount] ∧
    (onPort PortInputs.idle).pending = [] := by decide

/-- UndefinedRequestCodesAreIllegal: both ranges at their ends. -/
theorem witness_UndefinedRequestCodesAreIllegal :
    (∀ c ∈ [0x00#8, 0x0F#8, 0xB0#8, 0xFF#8],
      (queued (.request 0 ⟨c, PortInputs.idle⟩) []).pending = [.request 0 ⟨c, PortInputs.idle⟩] ∧
      (c.toNat / 16 = 0 ∨ 11 ≤ c.toNat / 16)) ∧
    (∀ c ∈ [0x10#8, 0xAF#8],
      (queued (.request 0 ⟨c, PortInputs.idle⟩) []).pending = [.request 0 ⟨c, PortInputs.idle⟩] ∧
      1 ≤ c.toNat / 16 ∧ c.toNat / 16 ≤ 10) := by decide

/-- A present integer slot carries its code. -/
theorem carries_code (t : Tables) (f : Field) (n : Nat) (h : n < 2 ^ 16) :
    carries t f (codeSlot n) n :=
  ⟨rfl, .inl ⟨rfl, by simp [codeSlot]; omega⟩⟩

/-- The name with index 0 carries its code, 0 for GAIN. -/
theorem carries_name_gain : carries Config.tablesExample .gain (nameSlot 0) 0 :=
  ⟨rfl, .inr ⟨rfl, .gain, "1x", 0, by decide⟩⟩

/-- The name with index 0 carries its code, 12 for IT. -/
theorem carries_name_it : carries Config.tablesExample .it (nameSlot 0) 12 :=
  ⟨rfl, .inr ⟨rfl, .it, "25ms", 0xC, by decide⟩⟩

/-- The request lines of an ENCODE of ALS_CONF with two names. -/
def namedConf : State :=
  onPort (slotPort [nameSlot 0, nameSlot 0, codeSlot 3, codeSlot 1, codeSlot 1])

/-- EncodeAlsConfGivesTheFormula, with names, and with every code at its maximum. -/
theorem witness_EncodeAlsConfGivesTheFormula :
    (∃ s, s = namedConf ∧ carries s.tables .gain s.port.slot0 0 ∧ carries s.tables .it s.port.slot1 12 ∧
      carries s.tables .pers s.port.slot2 3 ∧ carries s.tables .intEn s.port.slot3 1 ∧
      carries s.tables .sd s.port.slot4 1) ∧
    (∃ s, s = onPort (slotPort [codeSlot 3, codeSlot 15, codeSlot 3, codeSlot 1, codeSlot 1]) ∧
      carries s.tables .gain s.port.slot0 3 ∧ carries s.tables .it s.port.slot1 15 ∧
      carries s.tables .pers s.port.slot2 3 ∧ carries s.tables .intEn s.port.slot3 1 ∧
      carries s.tables .sd s.port.slot4 1) :=
  ⟨⟨_, rfl, carries_name_gain, carries_name_it, carries_code _ _ 3 (by decide),
      carries_code _ _ 1 (by decide), carries_code _ _ 1 (by decide)⟩,
   ⟨_, rfl, carries_code _ _ 3 (by decide), carries_code _ _ 15 (by decide),
      carries_code _ _ 3 (by decide), carries_code _ _ 1 (by decide), carries_code _ _ 1 (by decide)⟩⟩

/-- EncodePsmAndAlsIntGiveTheFormula, both clauses at their maximum. -/
theorem witness_EncodePsmAndAlsIntGiveTheFormula :
    (∃ s, s = onPort (slotPort [codeSlot 3, codeSlot 1]) ∧
      carries s.tables .psmMode s.port.slot0 3 ∧ carries s.tables .psmEn s.port.slot1 1 ∧
      s.port.slot2.present = false ∧ s.port.slot3.present = false ∧ s.port.slot4.present = false) ∧
    (∃ s, s = onPort (slotPort [codeSlot 1, codeSlot 1]) ∧
      carries s.tables .intLow s.port.slot0 1 ∧ carries s.tables .intHigh s.port.slot1 1 ∧
      s.port.slot2.present = false ∧ s.port.slot3.present = false ∧ s.port.slot4.present = false) :=
  ⟨⟨_, rfl, carries_code _ _ 3 (by decide), carries_code _ _ 1 (by decide), rfl, rfl, rfl⟩,
   ⟨_, rfl, carries_code _ _ 1 (by decide), carries_code _ _ 1 (by decide), rfl, rfl, rfl⟩⟩

/-- WindowsHoldTheirBytes: the ranges at their ends, the port, and the consumer call's released
scope. -/
theorem witness_WindowsHoldTheirBytes :
    (onPort PortInputs.idle).scope = false ∧
    ((0 : Int) ≤ 255 ∧ (255 : Int) ≤ 255 ∧ (0 : Int) ≤ 0 ∧ ((256 : Int) > 255) ∧ (-1 : Int) < 0) ∧
    (∃ s, s = onPort (slotPort [codeSlot 255, codeSlot 255]) ∧
      carries s.tables .msb s.port.slot0 255 ∧ carries s.tables .lsb s.port.slot1 255 ∧
      s.port.slot2.present = false ∧ s.port.slot3.present = false ∧ s.port.slot4.present = false) :=
  ⟨rfl, by decide, ⟨_, rfl, carries_code _ _ 255 (by decide), carries_code _ _ 255 (by decide), rfl,
    rfl, rfl⟩⟩

/-- EncodeIsAllOrNothing: a selector with no layout, legal slots, and slots that are not legal. -/
theorem witness_EncodeIsAllOrNothing :
    layoutOfId 0x4 = none ∧ layoutOfId 0x0 = some .alsConf ∧
    slotsLegal Config.tablesExample .alsConf namedConf.port.slots ∧
    ¬ slotsLegal Config.tablesExample .psm (slotPort [codeSlot 4, codeSlot 0]).slots := by
  refine ⟨rfl, rfl, ?_, ?_⟩
  · intro k sl h
    match k with
    | 0 => cases h; exact ⟨0, carries_name_gain, by decide⟩
    | 1 => cases h; exact ⟨12, carries_name_it, by decide⟩
    | 2 => cases h; exact ⟨3, carries_code _ _ 3 (by decide), by decide⟩
    | 3 => cases h; exact ⟨1, carries_code _ _ 1 (by decide), by decide⟩
    | 4 => cases h; exact ⟨1, carries_code _ _ 1 (by decide), by decide⟩
    | k + 5 => cases h
  · intro h
    obtain ⟨c, ⟨-, hc⟩, hm⟩ := h 0 (codeSlot 4) rfl
    rcases hc with ⟨-, hv⟩ | ⟨hn, -⟩
    · change 4 = c at hv
      change c ≤ 3 at hm
      omega
    · exact absurd hn (by decide)

/-- FieldCodesAreRangeChecked and EncodeAndUnpackRoundTrip: codes at their maximum, one above it and
one below 0, and a raw value with every filler bit set. -/
theorem witness_FieldCodesAreRangeChecked :
    layoutOfId 0x0 = some .alsConf ∧
    (∀ f ∈ layoutFields .alsConf, (0 : Int) ≤ fieldMax f ∧ (fieldMax f : Int) ≤ fieldMax f) ∧
    (∃ f ∈ layoutFields .alsConf, (fieldMax f : Int) < (fieldMax f : Int) + 1) ∧
    (∃ f ∈ layoutFields .alsConf, (fun _ : Field => (-1 : Int)) f < 0) := by decide

/-- EncodeAndUnpackRoundTrip. -/
theorem witness_EncodeAndUnpackRoundTrip :
    layoutOfId 0x0 = some .alsConf ∧ (∀ f ∈ layoutFields .alsConf, fieldMax f ≤ fieldMax f) ∧
    ([0xFF, 0xFF] : List Byte).length = layoutLen .alsConf := by decide

/-- UnpackAlsConfGivesTheFields, UnpackShortLayoutsGivesTheFields, DecflagsGivesTheSingleBitFields,
and the decoders of two and three bytes. -/
theorem witness_raw_bytes :
    (onPort (rawPort [0xFF, 0x00])).port.raw = [0xFF, 0x00] ∧
    (onPort (rawPort [0xFD])).port.raw = [0xFD] ∧
    (onPort (rawPort [0x80, 0x00, 0x01])).port.raw = [0x80, 0x00, 0x01] := by decide

/-- DecflagsAgreesWithUnpack. -/
theorem witness_DecflagsAgreesWithUnpack :
    layoutOfId 0x6 = some .alsInt ∧ ([0x40, 0xFF] : List Byte).length = layoutLen .alsInt := by decide

/-- FillerBitsAreIgnored: the rows K1 and K4. -/
theorem witness_FillerBitsAreIgnored :
    layoutOfId 0x0 = some .alsConf ∧
    (onPort (rawPort [0x03, 0x00])).port.raw.length = layoutLen .alsConf ∧
    (onPort (rawPort [0xE7, 0x0C])).port.raw.length = layoutLen .alsConf ∧
    be (onPort (rawPort [0x03, 0x00])).port.raw &&& namedMask .alsConf =
      be (onPort (rawPort [0xE7, 0x0C])).port.raw &&& namedMask .alsConf := by decide

/-- UnknownLayoutComesBeforeByteCount: the selectors next to a layout's. -/
theorem witness_UnknownLayoutComesBeforeByteCount :
    ∀ l ∈ [0x4, 0x5, 0x7, 0xF], l ∉ [0x0, 0x1, 0x2, 0x3, 0x6] := by decide

/-- SignLaw: both widths, values on either side of the sign bit. -/
theorem witness_SignLaw :
    2 ^ 24 - 1 < 2 ^ 24 ∧ 2 ^ 23 < 2 ^ 24 ∧ 2 ^ 15 - 1 < 2 ^ 16 ∧
    (-2 ^ 23 : Int) ≤ -2 ^ 23 ∧ (-2 ^ 23 : Int) < 2 ^ 23 := by decide

/-- PortResultsReadBack: each clause at its most negative value or its largest count. -/
theorem witness_PortResultsReadBack :
    decp24Op (onPort (rawPort [0x80, 0x00, 0x00])).port.raw = .ok (-8388608) ∧
    dect16Op (onPort (rawPort [0x80, 0x00])).port.raw = .ok (-32768) ∧
    decu16Op (onPort (rawPort [0xFF, 0xFF])).port.raw = .ok 65535 := by decide

/-- WrongByteCountIsProtocolError: each clause, one byte short and one byte long. -/
theorem witness_WrongByteCountIsProtocolError :
    (onPort (rawPort [0xFF, 0x00])).port.raw.length ≠ 3 ∧
    (onPort (rawPort [0x64])).port.raw.length ≠ 2 ∧
    (onPort (rawPort [0x80, 0x00, 0x00])).port.raw.length ≠ 2 ∧
    (layoutOfId 0x3 = some .psm ∧ (onPort (rawPort [])).port.raw.length ≠ layoutLen .psm) := by decide

/-- ToluxIsTheExactProduct: the last index below 3. -/
theorem witness_ToluxIsTheExactProduct : (2#2).toNat < 3 := by decide

/-- DefaultScaleFloatsAreExact: the most negative values, and another scale. -/
theorem witness_DefaultScaleFloatsAreExact :
    (∃ q, decodePressure [0x80, 0x00, 0x00] 4096 none = .next (.ok q)) ∧
    (∃ q, decodeTemperature [0x80, 0x00] 256 none = .next (.ok q)) ∧ (4095 : Int) ≠ 4096 :=
  ⟨⟨_, rfl⟩, ⟨_, rfl⟩, by decide⟩

/-- ScaledDecodersAreExact: the scales where the clauses meet. -/
theorem witness_ScaledDecodersAreExact : (1 : Int) ≤ 1 ∧ (0 : Int) ≤ 0 := by decide

/-- LookupAnswersItsNamespace: each clause. -/
theorem witness_LookupAnswersItsNamespace :
    6 < (7#4).toNat ∧
    (namespaceOfId 0 = some .gain ∧ optName Config.tablesExample .gain 0 = some "1x" ∧
      optCode Config.tablesExample .gain "1x" = some 0) ∧
    (fieldSpace .gain = some .gain ∧ Field.intHigh ∈ [Field.msb, .lsb, .intLow, .intHigh]) ∧
    (optName Config.tablesExample .gain 1 = some "foo" ∧
      optCode Config.tablesExample .gain "foo" = none) ∧
    (namespaceOfId 6 = some .psmEn ∧ optName Config.tablesExample .psmEn 0 = none) := by decide

/-- The example tables with another row of another namespace. -/
def otherTables : Tables :=
  { Config.tablesExample with
    optRows := ⟨.it, "50ms", 8⟩ :: Config.tablesExample.optRows }

/-- NamespacesAreSeparate: two different tables with the same gain rows. -/
theorem witness_NamespacesAreSeparate :
    otherTables ≠ Config.tablesExample ∧
    otherTables.optRows.filter (fun r => r.space == .gain) =
      Config.tablesExample.optRows.filter (fun r => r.space == .gain) ∧
    otherTables.optNames.filter (fun r => r.space == .gain) =
      Config.tablesExample.optNames.filter (fun r => r.space == .gain) ∧
    namespaceOfId 0 = some .gain ∧ fieldSpace .gain = some .gain ∧
    6 < 7 ∧ Field.msb ∈ [Field.msb, .lsb, .intLow, .intHigh] := by decide

/-- GivenOptionsHold and LkrefreshAnswersThePair: the constraints on the tables can be met. -/
theorem witness_tablesWf : tablesWf Config.tablesExample = true := by decide

/-- GivenOptionsHold's last clause. -/
theorem witness_GivenOptionsHold :
    tablesWf Config.tablesExample = true ∧ fieldSpace .it = some .it ∧
    optCode Config.tablesExample .it "25ms" = some 0xC := by decide

/-- LookupThenEncode. -/
theorem witness_LookupThenEncode :
    tablesWf Config.tablesExample = true ∧ layoutOfId 0x0 = some .alsConf ∧
    Field.it ∈ layoutFields .alsConf ∧
    lookupField Config.tablesExample (.field .it) "25ms" = .ok 0xC ∧
    (∀ g ∈ layoutFields .alsConf, g ≠ .it →
      (fun g => if g = Field.it then 12 else fieldMax g) g ≤ fieldMax g) ∧
    (fun g => if g = Field.it then 12 else fieldMax g) .it = (0xC#8).toNat := by decide

/-- UnknownNameIsReportedPerOperation: the name of S8 and F9. -/
theorem witness_UnknownNameIsReportedPerOperation :
    layoutOfId 0x0 = some .alsConf ∧ Field.gain ∈ layoutFields .alsConf ∧
    fieldSpace .gain = some .gain ∧ optCode Config.tablesExample .gain "foo" = none ∧
    List.lookup (.field .gain) [(Key.field .gain, Operand.named "foo")] = some (.named "foo") := by
  decide

/-- LkrefreshAnswersThePair: each clause. The second is met by tables whose names go beyond their
pairs. -/
theorem witness_LkrefreshAnswersThePair :
    (refreshName Config.tablesExample 0 = some "1100ms" ∧
      refreshPair Config.tablesExample "1100ms" = some (0, 0)) ∧
    (refreshName { Config.tablesExample with refreshNames := [⟨5, "7s"⟩] } 5 = some "7s" ∧
      refreshPair { Config.tablesExample with refreshNames := [⟨5, "7s"⟩] } "7s" = none) ∧
    refreshName Config.tablesExample 2 = none ∧ tablesWf Config.tablesExample = true ∧
    refreshPair Config.tablesExample "d15" = some (3, 3) := by decide

/-- ModecmdGivesTheCommandByte: the first identifier with no mode. -/
theorem witness_ModecmdGivesTheCommandByte :
    6 ≤ (ModeSel.mk 6).bits.toNat ∧ 6 ≤ (ModeSel.mk 15).bits.toNat := by decide

/-- WrittenWordsReachTheirRegister and CommandBytesReachTheCommandRegister. -/
theorem witness_written_words :
    (onPort PortInputs.idle).scope = false ∧
    (∃ m e, Instr.fmtPsm 3 1 = .fmtPsm m e) ∧ (∃ c, Instr.fmtCmd 0x77 = .fmtCmd c) ∧
    (Instr.cmdDormant1s = .cmdDormant1s ∧ (0xFB#8) = 0xFB#8) :=
  ⟨rfl, ⟨_, _, rfl⟩, ⟨_, rfl⟩, rfl, rfl⟩

/-- ReadWordsAreDecoded: the scope released, and held. -/
theorem witness_ReadWordsAreDecoded :
    (onPort PortInputs.idle).scope = false ∧
    { onPort PortInputs.idle with scope := true }.scope = true := by decide

/-- EqualRequestsGetEqualResponses: two states that differ in all the rest. -/
theorem witness_EqualRequestsGetEqualResponses :
    sourceOf (.encode ⟨0⟩) = .requestPort ∧
    namedConf.tables = { namedConf with bus := [.enterScope], asked := 7 }.tables ∧
    namedConf.port = { namedConf with bus := [.enterScope], asked := 7 }.port := ⟨rfl, rfl, rfl⟩

/-- UnnamedInputsAreDontCares: each clause, with lines that do differ. -/
theorem witness_UnnamedInputsAreDontCares :
    (({ namedConf.port with b0 := 0xFF, nbytes := 3 } : PortInputs).slots = namedConf.port.slots) ∧
    (({ rawPort [0x03] with b2 := 0xFF, slot0 := codeSlot 1 } : PortInputs).raw =
      (onPort (rawPort [0x03])).port.raw) ∧
    (({ slotPort [nameSlot 0] with b0 := 0xFF, slot0 := codeSlot 0 } : PortInputs).slot0.val =
      (onPort (slotPort [nameSlot 0])).port.slot0.val) := by decide

/-- StepRefinesTheBlockFunction and RequestsAreAnsweredInOrder. -/
theorem witness_pending_requests :
    ({ onPort PortInputs.idle with
        pending := [(0, ⟨0xA0, PortInputs.idle⟩), (1, ⟨0x00, PortInputs.idle⟩)].map
          (fun e => Item.request e.1 e.2) ++
          [.word 1 .psm [0x07]] } : State).pending =
      [.request 0 ⟨0xA0, PortInputs.idle⟩, .request 1 ⟨0x00, PortInputs.idle⟩, .word 1 .psm [0x07]] := rfl

/-- RequestsAreAnsweredInOrder's second clause: a reset between two requests, during an operation. -/
theorem witness_RequestsAreAnsweredInOrder :
    ({ onPort PortInputs.idle with
        pending := [.request 0 ⟨0xA0, PortInputs.idle⟩, .reset 0 (some ⟨0xA1, PortInputs.idle⟩),
          .request 1 ⟨0x00, PortInputs.idle⟩] } : State).pending =
      [((0 : Nat), (⟨0xA0, PortInputs.idle⟩ : Request))].map (fun e => Item.request e.1 e.2) ++
        .reset 0 (some ⟨0xA1, PortInputs.idle⟩) ::
          ([((1 : Nat), (⟨0x00, PortInputs.idle⟩ : Request))].map (fun e => Item.request e.1 e.2) ++
            []) := rfl

/-- NoStepChangesTheTables. -/
theorem witness_NoStepChangesTheTables :
    ∃ t, step (queued (.request 0 ⟨0xA1, PortInputs.idle⟩) []) = .next t := ⟨_, rfl⟩

/-- StepKeepsStatesGood and GoodStatesGoOn: a good state whose oldest item is admissible. -/
theorem witness_good_state :
    (queued (.call ⟨1, none, 0⟩ (.getPressure none)) [.busError]).Good ∧
    (∃ t, step (queued (.call ⟨1, none, 0⟩ (.getPressure none)) [.busError]) = .next t) ∧
    (∀ i rest, (queued (.call ⟨1, none, 0⟩ (.getPressure none)) [.busError]).pending = i :: rest →
      i.admissible = true) :=
  ⟨⟨witness_tablesWf, rfl, rfl, rfl, rfl⟩, ⟨_, rfl⟩, by
    intro i rest h
    injection h with h _
    subst h
    decide⟩

/-- StopsAreOnlyTheNamedOnes: a fault, of a word and of a call, and a refusal that are reached. -/
theorem witness_StopsAreOnlyTheNamedOnes :
    step { queued (.word 1 .pressure [0, 0, 0]) [] with scope := true } = .fault .scopeHeld ∧
    step { queued (.call ⟨0, none, 0⟩ (.setMode 0x0A)) [] with scope := true } = .fault .scopeHeld ∧
    step (queued (.call ⟨0, none, 0⟩ .getWhiteCount) []) = .refused .attemptsOutsideDomain :=
  ⟨rfl, rfl, rfl⟩

/-- RetryCountsAttempts: success on the last permitted attempt (A4), one attempt too few (A8), and no
attempt. -/
theorem witness_RetryCountsAttempts :
    registerLength ⟨0x10, 0x05⟩ = some 2 ∧ ([0x00, 0x64] : List Byte).length = 2 ∧
    (queued (.call ⟨5, none, 0⟩ .getWhiteCount)
      [.busError, .busError, .busError, .busError, .bytes [0x00, 0x64]]).script =
      List.replicate 4 .busError ++ .bytes [0x00, 0x64] :: [] ∧
    (onPort PortInputs.idle).retry.cancelIn = none ∧
    4 + 1 ≤ (onPort PortInputs.idle).retry.maxAttempts ∧
    ((1 : Nat) ≤ 3 ∧ (3 : Nat) ≤ 3) ∧
    { onPort PortInputs.idle with retry := ⟨0, none, 0⟩ }.retry.maxAttempts = 0 ∧
    ((queued (.call ⟨1, none, 0⟩ (.readWithRetry ⟨0x10, 0x05⟩ 2)) []).pending =
        [.call ⟨1, none, 0⟩ (.readWithRetry ⟨0x10, 0x05⟩ 2)] ∧
      (queued (.call ⟨1, none, 0⟩ (.readWithRetry ⟨0x10, 0x05⟩ 2)) []).scope = false ∧
      (queued (.call ⟨1, none, 0⟩ (.readWithRetry ⟨0x10, 0x05⟩ 2)) []).turns = []) := by decide

/-- ProtocolErrorAndCancellationEndTheLoop: A6, and a signal after two attempts of five. -/
theorem witness_ProtocolErrorAndCancellationEndTheLoop :
    (registerLength ⟨0x10, 0x05⟩ = some 2 ∧ (onPort PortInputs.idle).retry = ⟨5, none, 0⟩ ∧ 1 + 1 ≤ 5 ∧
      (queued (.call ⟨5, none, 0⟩ .getWhiteCount) [.busError, .protocolError]).script =
        List.replicate 1 .busError ++ .protocolError :: []) ∧
    ({ onPort PortInputs.idle with retry := ⟨5, some 2, 0⟩ }.retry.cancelIn = some 2 ∧ 2 + 1 ≤ 5 ∧
      (queued (.call ⟨5, some 2, 0⟩ .getWhiteCount) [.busError, .busError]).script =
        List.replicate 2 .busError ++ []) := by decide

/-- WritesUseASingleAttempt: each clause. -/
theorem witness_WritesUseASingleAttempt :
    registerLength ⟨0x6D, 0x30⟩ = some ([0x2B] : List Byte).length ∧
    (queued (.word 1 .command [0x2B]) [.bytes []]).script = .bytes [] :: [] ∧
    (queued (.word 1 .command [0x2B]) [.busError]).script = .busError :: [] ∧
    (queued (.word 1 .command [0x2B]) []).script = [] := by decide

/-- CompositeReadsReleaseTheScope, on a read of the two temperature registers that fails at once. -/
theorem witness_CompositeReadsReleaseTheScope :
    (queued (.call ⟨1, none, 0⟩ (.getTemperature none)) [.busError]).pending =
      [.call ⟨1, none, 0⟩ (.getTemperature none)] ∧
    (∃ t, step (queued (.call ⟨1, none, 0⟩ (.getTemperature none)) [.busError]) = .next t) :=
  ⟨rfl, _, rfl⟩

/-- A temperature read through three bus errors (95_test_vectors.md Program 6). -/
def temperatureAfterErrors : State :=
  queued (.call ⟨5, none, 0⟩ (.getTemperature none))
    [.busError, .busError, .busError, .bytes [0x80], .bytes [0]]

/-- GetPressureReadsAndDecodes and GetTemperatureReadsAndDecodes: bytes at once, on the last permitted
attempt, and Program 6. -/
theorem witness_readings :
    ((queued (.call ⟨1, none, 0⟩ (.getPressure none)) [.bytes [0xFF], .bytes [0], .bytes [0]]).pending =
        .call ⟨1, none, 0⟩ (.getPressure none) :: [] ∧
      (queued (.call ⟨1, none, 0⟩ (.getPressure none)) []).scope = false ∧
      (queued (.call ⟨1, none, 0⟩ (.getPressure none))
        [.bytes [0xFF], .bytes [0], .bytes [0]]).script =
          failThen 0 [0xFF] ++ failThen 0 [0] ++ failThen 0 [0] ++ [] ∧
      0 + 1 ≤ (RetryArgs.mk 1 none 0).maxAttempts ∧ (RetryArgs.mk 1 none 0).cancelIn = none) ∧
    ((queued (.call ⟨2, none, 0⟩ (.getPressure none))
        [.bytes [0xFF], .busError, .bytes [0], .bytes [0]]).script =
          failThen 0 [0xFF] ++ failThen 1 [0] ++ failThen 0 [0] ++ [] ∧
      1 + 1 ≤ (RetryArgs.mk 2 none 0).maxAttempts) ∧
    (temperatureAfterErrors.pending = .call ⟨5, none, 0⟩ (.getTemperature none) :: [] ∧
      temperatureAfterErrors.scope = false ∧
      temperatureAfterErrors.script = failThen 3 [0x80] ++ failThen 0 [0] ++ [] ∧
      3 + 1 ≤ (RetryArgs.mk 5 none 0).maxAttempts) ∧
    ((RetryArgs.mk 2 (some 4) 0).cancelIn = some 4 ∧ 0 + 1 + 0 + 3 ≤ 4) := by decide

/-- CountCallsReadAndDecode: a word on the last permitted attempt, and a read that a signal ends. -/
theorem witness_CountCallsReadAndDecode :
    (queued (.call ⟨2, none, 0⟩ (.getAmbientLux 3)) [.busError, .bytes [0xFF, 0xFF]]).pending =
      .call ⟨2, none, 0⟩ (.getAmbientLux 3) :: [] ∧
    (queued (.call ⟨2, none, 0⟩ (.getAmbientLux 3)) [.busError, .bytes [0xFF, 0xFF]]).script =
      failThen 1 [0xFF, 0xFF] ++ [] ∧
    (queued (.call ⟨1, none, 0⟩ .getWhiteCount) [.bytes [0, 0x64]]).script = failThen 0 [0, 0x64] ++ [] ∧
    (queued (.call ⟨1, some 0, 0⟩ .getWhiteCount) []).pending =
      .call ⟨1, some 0, 0⟩ .getWhiteCount :: [] ∧
    (onPort PortInputs.idle).scope = false ∧ (onPort PortInputs.idle).turns = [] ∧
    1 + 1 ≤ (RetryArgs.mk 2 none 0).maxAttempts ∧ (RetryArgs.mk 2 none 0).cancelIn = none ∧
    1 ≤ (RetryArgs.mk 1 (some 0) 0).maxAttempts := by decide

/-- ConfigurationCallsWriteOnlyWholeBuffers: an ENCODE that fails and one that succeeds. -/
theorem witness_ConfigurationCallsWriteOnlyWholeBuffers :
    (onPort PortInputs.idle).scope = false ∧
    encodeOp Config.tablesExample 0x3 [(.field .psmMode, .code 4), (.field .psmEn, .code 0)] =
      .error .configurationError ∧
    encodeOp Config.tablesExample 0x3 [(.field .psmMode, .code 3), (.field .psmEn, .code 1)] =
      .ok [0x07] := by decide

/-- RegisterCallsKeepToTheMap: each clause. -/
theorem witness_RegisterCallsKeepToTheMap :
    (1 ≤ (RetryArgs.mk 1 none 0).maxAttempts ∧ (RetryArgs.mk 1 none 0).cancelIn = none ∧
      (onPort PortInputs.idle).scope = false ∧ (onPort PortInputs.idle).turns = []) ∧
    ((queued (.call ⟨1, none, 0⟩ (.readWithRetry ⟨0x10, 0x06⟩ 2)) [.bytes [0x40, 0xFF]]).pending =
        [.call ⟨1, none, 0⟩ (.readWithRetry ⟨0x10, 0x06⟩ 2)] ∧
      registerLength ⟨0x10, 0x06⟩ = some 2 ∧ ([0x40, 0xFF] : List Byte).length = 2) ∧
    ((queued (.call ⟨1, none, 0⟩ (.readRegister ⟨0x6D, 0x30⟩ 1)) [.busError]).pending =
        [.call ⟨1, none, 0⟩ (.readRegister ⟨0x6D, 0x30⟩ 1)] ∧ registerLength ⟨0x6D, 0x30⟩ = some 1 ∧
      (queued (.call ⟨1, none, 0⟩ (.readRegister ⟨0x6D, 0x30⟩ 1)) [.busError]).script =
        .busError :: []) ∧
    ((queued (.call ⟨1, none, 0⟩ (.readRegister ⟨0x6D, 0x30⟩ 1)) [.protocolError]).script =
        .protocolError :: [] ∧
      (queued (.call ⟨1, none, 0⟩ (.readRegister ⟨0x6D, 0x30⟩ 1)) [.bytes [1, 2]]).script =
        .bytes [1, 2] :: [] ∧ ([1, 2] : List Byte).length ≠ 1) ∧
    (registerLength ⟨0x10, 0x07⟩ ≠ some 2 ∧ registerLength ⟨0x10, 0x06⟩ ≠ some 1) ∧
    ((queued (.call ⟨1, none, 0⟩ (.writeRegister ⟨0x6D, 0x30⟩ [])) []).pending =
        [.call ⟨1, none, 0⟩ (.writeRegister ⟨0x6D, 0x30⟩ [])] ∧
      registerLength ⟨0x6D, 0x30⟩ ≠ some ([] : List Byte).length ∧
      registerLength ⟨0x6D, 0x30⟩ = some ([0x0A] : List Byte).length) := by decide

/-- A pressure read whose second byte uses up two attempts, after a first one that came on the last. -/
def failingPressure : State :=
  queued (.call ⟨2, none, 0⟩ (.getPressure none))
    [.busError, .bytes [0xFF], .busError, .busError, .bytes []]

/-- A temperature read with a signal after three attempts: the first byte took two of them. -/
def cancelledTemperature : State :=
  queued (.call ⟨2, some 3, 0⟩ (.getTemperature none))
    [.busError, .bytes [0x80], .busError, .bytes [0]]

/-- CompositeReadsFailWithTheFirstError: the second register fails transiently to the end; it gives two
bytes after a failure; a signal cuts it; the first one fails at once. -/
theorem witness_CompositeReadsFailWithTheFirstError :
    (failingPressure.pending = [.call ⟨2, none, 0⟩ (.getPressure none)] ∧ failingPressure.scope = false ∧
      [(⟨⟨0x6D, 0x06⟩, 1, 0xFF⟩ : Reading)].map (fun r => r.reg) ++ ⟨0x6D, 0x07⟩ :: [⟨0x6D, 0x08⟩] =
        ([⟨0x6D, 0x06⟩, ⟨0x6D, 0x07⟩, ⟨0x6D, 0x08⟩] : List BusAddr) ∧
      failingPressure.script =
        [(⟨⟨0x6D, 0x06⟩, 1, 0xFF⟩ : Reading)].flatMap (fun r => failThen r.failures [r.byte]) ++
          List.replicate 2 .busError ++ [] ++ [.bytes []]) ∧
    ((queued (.call ⟨3, none, 0⟩ (.getTemperature none))
        [.bytes [1], .busError, .bytes [1, 2]]).script =
      [(⟨⟨0x6D, 0x09⟩, 0, 1⟩ : Reading)].flatMap (fun r => failThen r.failures [r.byte]) ++
        List.replicate 1 .busError ++ [.bytes [1, 2]] ++ [] ∧ ([1, 2] : List Byte).length ≠ 1) ∧
    (cancelledTemperature.pending = [.call ⟨2, some 3, 0⟩ (.getTemperature none)] ∧
      some 3 = some (attemptsOf [⟨⟨0x6D, 0x09⟩, 1, 0x80⟩] + 1) ∧
      cancelledTemperature.script =
        [(⟨⟨0x6D, 0x09⟩, 1, 0x80⟩ : Reading)].flatMap (fun r => failThen r.failures [r.byte]) ++
          List.replicate 1 .busError ++ [] ++ [.bytes [0]]) ∧
    ((queued (.call ⟨1, none, 0⟩ (.getTemperature none)) [.protocolError]).script =
        [].flatMap (fun r : Reading => failThen r.failures [r.byte]) ++
          List.replicate 0 .busError ++ [.protocolError] ++ [] ∧
      [].map (fun r : Reading => r.reg) ++ ⟨0x6D, 0x09⟩ :: [⟨0x6D, 0x0A⟩] =
        ([⟨0x6D, 0x09⟩, ⟨0x6D, 0x0A⟩] : List BusAddr)) := by decide

/-- MalformedWordsAreProtocolErrors: each register's words one byte long or short, and whole. -/
theorem witness_MalformedWordsAreProtocolErrors :
    (RegWord.psm ∈ [RegWord.psm, .command] ∧ ([0, 0] : List Byte).length ≠ 1 ∧
      (queued (.word 1 .psm [0, 0]) []).pending = [.word 1 .psm [0, 0]]) ∧
    (RegWord.white ∈ [RegWord.alsConf, .alsWh, .alsWl, .alsInt, .ambient, .white, .temperature] ∧
      ([0] : List Byte).length ≠ 2 ∧ (queued (.word 1 .white [0]) []).pending = [.word 1 .white [0]]) ∧
    (([0, 0] : List Byte).length ≠ 3 ∧ ([0, 0, 0] : List Byte).length = 3 ∧
      (queued (.word 1 .pressure [0, 0]) []).pending = [.word 1 .pressure [0, 0]]) := by decide

/-- HeldScopeBlocksEveryBusUser: a held scope, and each clause's other hypotheses. -/
theorem witness_HeldScopeBlocksEveryBusUser :
    { onPort PortInputs.idle with scope := true }.scope = true ∧
    1 ≤ { onPort PortInputs.idle with scope := true }.retry.maxAttempts ∧
    sourceOf (.fmtPsm 3 1) ≠ .requestPort ∧ sourceOf (.modecmd ⟨0⟩) = .requestPort ∧
    readsWithRetry .getWhiteCount ⟨0x10, 0x05⟩ 2 ∧
    encodeOp Config.tablesExample 0x3 [(.field .psmMode, .code 3), (.field .psmEn, .code 1)] =
      .ok [0x07] ∧
    (encodeOp Config.tablesExample 0x0 ((layoutFields .alsConf).map (fun f => (.field f, .code 0)))) =
      .ok [0x00, 0x00] :=
  ⟨rfl, by decide, by decide, by decide, .inr (.inl ⟨rfl, rfl, rfl⟩), by decide, by decide⟩

/-- A count read that another caller's item overtakes after one of its two attempts. -/
def overtakenRead (k : Nat) : State :=
  { queued (.call ⟨2, none, 0⟩ .getWhiteCount) [.busError, .bytes [0x00, 0x64]] with
    pending := [.call ⟨2, none, 0⟩ .getWhiteCount, .word 1 .psm [0x07]], turns := [⟨1, k⟩] }

/-- OvertakenReadsAreTheSameRead: both clauses, the second with the step of the uncut read. -/
theorem witness_OvertakenReadsAreTheSameRead :
    readsWithRetry .getWhiteCount ⟨0x10, 0x05⟩ 2 ∧ registerLength ⟨0x10, 0x05⟩ = some 2 ∧
    (overtakenRead 1).pending = .call ⟨2, none, 0⟩ .getWhiteCount :: [.word 1 .psm [0x07]] ∧
    (overtakenRead 1).scope = false ∧ (overtakenRead 1).turns = ⟨1, 1⟩ :: [] ∧
    (overtakenRead 1).script = List.replicate 1 .busError ++ [.bytes [0x00, 0x64]] ∧
    (overtakenRead 0).turns = [⟨1, 0⟩] ∧
    ∃ u, step { overtakenRead 0 with turns := [] } = .next u :=
  ⟨.inr (.inl ⟨rfl, rfl, rfl⟩), by decide, rfl, rfl, rfl, rfl, rfl, _, rfl⟩

/-- ProgramOrderOfEachCallerIsKept: a step that puts the call back, behind another caller's item. -/
theorem witness_ProgramOrderOfEachCallerIsKept :
    (overtakenRead 1).pending = .call ⟨2, none, 0⟩ .getWhiteCount :: [.word 1 .psm [0x07]] ∧
    ∃ t, step (overtakenRead 1) = .next t ∧
      t.pending = [.word 1 .psm [0x07], .call ⟨1, none, 0⟩ .getWhiteCount] := ⟨rfl, _, rfl, rfl⟩

/-- Two callers' reads outside a scope. -/
def twoReads : State :=
  { queued (.call ⟨3, none, 0⟩ (.readWithRetry ⟨0x10, 0x04⟩ 2)) (List.replicate 3 .busError) with
    pending := [.call ⟨3, none, 0⟩ (.readWithRetry ⟨0x10, 0x04⟩ 2),
                .call ⟨3, none, 1⟩ (.readWithRetry ⟨0x10, 0x05⟩ 2)] }

/-- EveryInterleavingIsAdmitted, on the order false, true, false. -/
theorem witness_EveryInterleavingIsAdmitted :
    (∀ p : Bool, registerLength ⟨0x10, if p then 0x05 else 0x04⟩ = some 2) ∧ twoReads.scope = false ∧
    (∀ p : Bool, [false, true, false].count p < 3) ∧
    twoReads.script = List.replicate ([true, false].length + 1) .busError ++ [] ∧
    twoReads.pending = .call ⟨3, none, 0⟩ (.readWithRetry ⟨0x10, 0x04⟩ 2) ::
      .call ⟨3, none, 1⟩ (.readWithRetry ⟨0x10, 0x05⟩ 2) :: [] ∧
    (fun p : Bool => if p then 1 else 0) true ≠ (fun p : Bool => if p then 1 else 0) false := by decide

end Sys2Proof.Tests
end

/-! The statements of 00_scope.md: what a step runs, that the ten operations are functions of the request
and the tables, and that a good state goes on. -/

namespace Sys2Proof.Machine

/-! ### What a step runs -/

/-- With nothing pending the machine waits. -/
theorem step_of_pending_nil {s : State} (h : s.pending = []) : step s = .next s := by
  rw [step, serve, h]

theorem step_of_pending_cons {s : State} {i : Item} {rest : List Item} (h : s.pending = i :: rest) :
    step s = runItem i (s.accept i rest) := by
  rw [step, serve, h]

theorem runWord_of_decode_ok {src : Source} {raw : List Byte} {i : Instr}
    (h : decode src raw = .ok i) (s : State) : runWord src raw s = exec i s := by
  rw [runWord, h]

theorem runWord_of_decode_error {src : Source} {raw : List Byte} {e : DecodeError}
    (h : decode src raw = .error e) (s : State) :
    runWord src raw s = .next (s.raise (decodeFailure e)) := by
  rw [runWord, h]

/-- Settles O3: each clause is the item's own arm of `runItem`, at the state that `accept` leaves. -/
theorem stepRunsTheOldestItem : Obligations.StepRunsTheOldestItem := by
  intro s rest
  refine ⟨fun p r i hp hd => ?_, fun p w raw i hp hd => ?_, fun args c hp => ?_, step_of_pending_nil⟩
  · calc step s
        = runWord .requestPort [r.code] (s.accept (.request p r) rest) := step_of_pending_cons hp
      _ = exec i (s.accept (.request p r) rest) := runWord_of_decode_ok hd _
  · calc step s
        = runWord (.register w) raw (s.accept (.word p w raw) rest) := step_of_pending_cons hp
      _ = exec i (s.accept (.word p w raw) rest) := runWord_of_decode_ok hd _
  · exact step_of_pending_cons hp

/-! ### The ten operations are functions of the request lines and the tables -/

/-- Each of the ten operations ends with its answer, which is a function of the tables and the request
lines alone (10_state.md R20). -/
theorem exec_operation {i : Instr} (h : sourceOf i = .requestPort) :
    ∃ o : Tables → PortInputs → Except Error Result,
      ∀ s, exec i s = .next (s.answer (o s.tables s.port)) := by
  cases i with
  | encode l => exact ⟨fun t p => encodeRsp t l p, fun _ => rfl⟩
  | unpack l => exact ⟨fun _ p => unpackRsp l p, fun _ => rfl⟩
  | decflags l => exact ⟨fun _ p => decflagsRsp l p, fun _ => rfl⟩
  | decp24 _ => exact ⟨fun _ p => decp24Rsp p, fun _ => rfl⟩
  | dect16 _ => exact ⟨fun _ p => dect16Rsp p, fun _ => rfl⟩
  | decu16 _ => exact ⟨fun _ p => decu16Rsp p, fun _ => rfl⟩
  | tolux _ r => exact ⟨fun _ p => toluxRsp r p, fun _ => rfl⟩
  | lookup f => exact ⟨fun t p => lookupRsp t f p, fun _ => rfl⟩
  | lkrefresh _ => exact ⟨fun t p => lkrefreshRsp t p, fun _ => rfl⟩
  | modecmd m => exact ⟨fun _ _ => modecmdRsp m, fun _ => rfl⟩
  | _ => exact nomatch h

/-- Settles O36: the response is the operation's answer to the tables and lines that both states share. -/
theorem equalRequestsGetEqualResponses : Obligations.EqualRequestsGetEqualResponses := by
  intro i s t hi htables hport
  obtain ⟨o, ho⟩ := exec_operation hi
  refine ⟨responseOf (o s.tables s.port), ?_, ?_⟩
  · rw [ho, State.answer_eq, State.respond]
  · rw [ho, State.answer_eq, State.respond, htables, hport]

/-! ### What goes on where the scope is released -/

theorem goesOn_next (t : State) : goesOn (.next t) := ⟨t, rfl⟩

theorem goesOn_unlessScope {s : State} (hs : s.scope = false)
    {k : Host.Outcome State Fault Refusal} (hk : goesOn k) : goesOn (s.unlessScope k) := by
  rwa [State.unlessScope, hs]

theorem goesOn_ifAttempts {s : State} (hm : 1 ≤ s.retry.maxAttempts)
    {k : Host.Outcome State Fault Refusal} (hk : goesOn k) : goesOn (s.ifAttempts k) := by
  rwa [State.ifAttempts, if_neg (by omega)]

theorem goesOn_busWrite {s : State} (hs : s.scope = false) (a : BusAddr) (raw : List Byte) :
    goesOn (s.busWrite a raw) :=
  goesOn_unlessScope hs (goesOn_next _)

/-- ENCODE's error is an answer too, so that encoding and writing goes on whether or not it writes. -/
theorem goesOn_encodeAndWrite {s : State} (hs : s.scope = false) (l : Nat)
    (vals : List (Key × Operand)) (a : BusAddr) : goesOn (s.encodeAndWrite l vals a) := by
  obtain ⟨raw, -, h⟩ | ⟨e, -, h⟩ := encodeAndWrite_spec s l vals a
  · exact h ▸ goesOn_busWrite hs a raw
  · exact ⟨_, h⟩

/-- A call that read a composite goes on when its decoder has an outcome for every word. -/
theorem goesOn_endReading (r : Except Error (List Byte)) (s : State)
    {dec : List Byte → Host.Outcome (Except Error Rat) Fault Refusal}
    (hdec : ∀ raw, ∃ o, dec raw = .next o) (result : Rat → Result) :
    goesOn (endReading r s dec result) := by
  cases r with
  | error e => exact goesOn_next _
  | ok raw =>
    obtain ⟨o, ho⟩ := hdec raw
    exact ⟨_, by rw [endReading, ho]⟩

theorem decodePressure_of_pos {scale : Int} (h : 0 < scale) (round : Option Int) (raw : List Byte) :
    ∃ o, decodePressure raw scale round = .next o :=
  ⟨_, if_neg (Int.not_le.mpr h)⟩

theorem decodeTemperature_of_pos {scale : Int} (h : 0 < scale) (round : Option Int)
    (raw : List Byte) : ∃ o, decodeTemperature raw scale round = .next o :=
  ⟨_, if_neg (Int.not_le.mpr h)⟩

/-! ### From a good state an admissible item goes on -/

theorem goesOn_operation {i : Instr} (h : sourceOf i = .requestPort) (s : State) :
    goesOn (exec i s) := by
  obtain ⟨o, ho⟩ := exec_operation h
  exact ⟨_, ho s⟩

/-- An operation always goes on; a register word or command byte does where the scope is released. -/
theorem goesOn_exec {s : State} (hs : s.scope = false) (i : Instr) : goesOn (exec i s) := by
  cases i with
  | encode | unpack | decflags | decp24 | dect16 | decu16 | tolux | lookup | lkrefresh | modecmd =>
    exact goesOn_operation rfl s
  | fmtAlsConf | fmtAlsWh | fmtAlsWl | fmtPsm =>
    simp only [exec, execFmtAlsConf, execFmtAlsWh, execFmtAlsWl, execFmtPsm]
    exact goesOn_encodeAndWrite hs _ _ _
  | fmtAlsInt | fmtP24 | fmtT16 | fmtU16 => exact goesOn_unlessScope hs (goesOn_next _)
  | fmtCmd | cmdCombined | cmdSingleTemperature | cmdSinglePressure | cmdDormant63ms
  | cmdDormant125ms | cmdDormant1s => exact goesOn_busWrite hs _ _

theorem goesOn_runWord {s : State} (hs : s.scope = false) (src : Source) (raw : List Byte) :
    goesOn (runWord src raw s) := by
  cases h : decode src raw with
  | ok i => exact runWord_of_decode_ok h s ▸ goesOn_exec hs i
  | error e => exact ⟨_, runWord_of_decode_error h s⟩

/-- The calls that read with the retry policy need the attempt that admissibility gives them
(43_environment_ops.md R148); the others need only the released scope. -/
theorem goesOn_runCall {s : State} (hs : s.scope = false) {c : Call}
    (hc : (Item.call s.retry c).admissible = true) : goesOn (runCall c s) := by
  cases c with
  | getPressure round =>
    exact goesOn_ifAttempts (of_decide_eq_true hc) (goesOn_unlessScope hs
      (goesOn_endReading _ _ (decodePressure_of_pos (by decide) round) _))
  | getTemperature round =>
    exact goesOn_ifAttempts (of_decide_eq_true hc) (goesOn_unlessScope hs
      (goesOn_endReading _ _ (decodeTemperature_of_pos (by decide) round) _))
  | getAmbientLux | getWhiteCount | readWithRetry =>
    exact goesOn_ifAttempts (of_decide_eq_true hc) (goesOn_unlessScope hs (goesOn_next _))
  | readRegister => exact goesOn_unlessScope hs (goesOn_next _)
  | setConfig | setPowerSaveMode | setThresholdWindow => exact goesOn_encodeAndWrite hs _ _ _
  | setMode | writeRegister => exact goesOn_busWrite hs _ _

theorem goesOn_runItem {s : State} (hs : s.scope = false) {i : Item} (hi : i.admissible = true) :
    goesOn (runItem i s) := by
  cases i with
  | request _ r => exact goesOn_runWord hs _ _
  | word _ r raw => exact goesOn_runWord hs _ _
  | call args c => exact goesOn_runCall (s := { s with retry := args }) hs hi
  | reset _ _ => exact goesOn_next _

/-- Settles O43: a good state's scope is released, and taking an item from the queue keeps it so. -/
theorem goodStatesGoOn : Obligations.GoodStatesGoOn := by
  intro s hs hadm
  cases hp : s.pending with
  | nil => exact ⟨s, step_of_pending_nil hp⟩
  | cons i rest =>
    have hscope : (s.accept i rest).scope = false := hs.scope
    exact step_of_pending_cons hp ▸ goesOn_runItem hscope (hadm i rest hp)

end Sys2Proof.Machine

/-! The statements of 10_state.md: what a step keeps, that a step on a request is the block's function and
that requests are answered in order, and the operations and words whose values are constants of the block. -/

namespace Sys2Proof.Machine

/-! ### What serving an item keeps -/

/-- `t` is `s` after an item was served: the tables are `s`'s, the request lines are idle, the scope is as it
was, and the trace has grown by whole transfers that keep the scope's rules and end with it as it was. -/
structure Served (s t : State) : Prop where
  tables : t.tables = s.tables
  port : t.port = PortInputs.idle
  scope : t.scope = s.scope
  trace : ∃ es, t.bus = s.bus ++ es ∧ scopeAfter s.scope es = some s.scope ∧
    es.all transferWhole = true

/-- Only the tables, the scope and the trace of the state before count. -/
theorem Served.of_frame {s u t : State} (h : Served u t) (htables : u.tables = s.tables)
    (hscope : u.scope = s.scope) (hbus : u.bus = s.bus) : Served s t :=
  ⟨h.tables.trans htables, h.port, h.scope.trans hscope, by simpa only [hscope, hbus] using h.trace⟩

/-- Reads, after which only the queue, the responses and the request lines change. -/
theorem Served.of_reads {s u t : State} (h : ReadsFrom s u) (htables : t.tables = u.tables)
    (hport : t.port = PortInputs.idle) (hscope : t.scope = u.scope) (hbus : t.bus = u.bus) :
    Served s t := by
  obtain ⟨es, hes, hreads⟩ := h.trace
  exact ⟨htables.trans h.tables, hport, hscope.trans h.scope, es, hbus.trans hes,
    scopeAfter_readsOnly _ hreads, all_transferWhole_readsOnly hreads⟩

theorem Served.reads_respond {s u : State} (h : ReadsFrom s u) (r : Response) :
    Served s (u.respond r) :=
  .of_reads h rfl rfl rfl rfl

theorem Served.respond (s : State) (r : Response) : Served s (s.respond r) :=
  .reads_respond (.refl s) r

theorem Served.reads_answer {s u : State} (h : ReadsFrom s u) (o : Except Error Result) :
    Served s (u.answer o) :=
  State.answer_eq u o ▸ .reads_respond h _

theorem Served.answer (s : State) (o : Except Error Result) : Served s (s.answer o) :=
  .reads_answer (.refl s) o

theorem Served.resetNow (s : State) : Served s s.resetNow :=
  .of_reads (.refl s) rfl rfl rfl rfl

/-- Reads inside one exclusive scope, and then the response (43_environment_ops.md R150, R151). -/
theorem Served.composite {s u : State} (hs : s.scope = false) (h : ReadsFrom s.enterScope u)
    (r : Response) : Served s (u.leaveScope.respond r) := by
  obtain ⟨es, hes, hreads⟩ := h.trace
  refine ⟨h.tables, State.respond_port _ _, hs.symm, [.enterScope] ++ es ++ [.leaveScope], ?_, ?_, ?_⟩
  · simp [hes]
  · simp [scopeAfter_append, scopeAfter_readsOnly _ hreads, scopeAfter, hs]
  · simpa [transferWhole] using all_transferWhole_readsOnly hreads

theorem Served.readComposite {s : State} (hs : s.scope = false) (as : List BusAddr) (r : Response) :
    Served s ((readComposite as s).2.respond r) := by
  have h : (Machine.readComposite as s).2 = (readEach as s.enterScope).2.leaveScope := rfl
  rw [h]
  exact .composite hs (readEach_spec as s.enterScope).1 r

/-- A write stands outside every scope, and moved its register's whole length if it completed. -/
theorem Served.writeAnd {s : State} (hs : s.scope = false) (a : BusAddr) (raw : List Byte) :
    Served s (s.writeAnd a raw) := by
  obtain ⟨x, sc, n, r, ht, -, hlen⟩ := writeAnd_spec s a raw
  rw [ht]
  refine ⟨rfl, rfl, rfl, [.write a raw x], rfl, by simp [scopeAfter, hs], ?_⟩
  cases x with
  | done => simp [transferWhole, hlen rfl]
  | busError | protocolError => rfl

theorem Served.reads_overtaken {s u : State} (h : ReadsFrom s u) (n : Nat) (i : Item) :
    Served s (u.overtaken n i) :=
  .of_reads h rfl rfl rfl rfl

theorem Served.readInTurns (s : State) (a : BusAddr) (n : Nat) (c : Call)
    (finish : List Byte → Except Error Result) : Served s (s.readInTurns a n c finish) := by
  obtain ⟨t, hreads, ⟨r, ht⟩ | ⟨-, ht⟩⟩ := readInTurns_spec s a n c finish
  · rw [ht]
    exact (Served.reads_respond hreads r).of_frame rfl rfl rfl
  · rw [ht]
    exact (Served.reads_overtaken hreads _ _).of_frame rfl rfl rfl

/-- A word that Transport has delivered: reads of registers of its length. -/
theorem ReadsFrom.delivered (s : State) {as : List BusAddr} {n : Nat}
    (hlen : ∀ a ∈ as, registerLength a = some n) : ReadsFrom s (s.delivered as n) := by
  refine ⟨rfl, rfl, rfl, rfl, rfl, rfl, rfl, rfl, _, rfl, ?_⟩
  induction as with
  | nil => rfl
  | cons a rest ih =>
    obtain ⟨ha, hrest⟩ := List.forall_mem_cons.mp hlen
    simp [readsOnly, transferWhole, ha, ih hrest]

/-! ### Outcomes that serve an item -/

/-- An outcome serves an item when its next state, if there is one, does. -/
def Serves (s : State) (o : Host.Outcome State Fault Refusal) : Prop :=
  ∀ t, o = .next t → Served s t

theorem Serves.next {s t : State} (h : Served s t) : Serves s (.next t) := by
  rintro _ ⟨⟩
  exact h

theorem Serves.fault (s : State) (f : Fault) : Serves s (.fault f) := by
  rintro _ ⟨⟩

theorem Serves.refused (s : State) (f : Refusal) : Serves s (.refused f) := by
  rintro _ ⟨⟩

/-- A held scope stops the access, so that `k` may rely on a released one. -/
theorem Serves.unlessScope {s : State} {k : Host.Outcome State Fault Refusal}
    (hk : s.scope = false → Serves s k) : Serves s (s.unlessScope k) := by
  obtain ⟨hs, h⟩ | ⟨-, h⟩ := unlessScope_spec s k <;> rw [h]
  · exact hk hs
  · exact .fault s _

theorem Serves.ifAttempts {s : State} {k : Host.Outcome State Fault Refusal} (hk : Serves s k) :
    Serves s (s.ifAttempts k) := by
  unfold State.ifAttempts
  split
  · exact .refused s _
  · exact hk

theorem Serves.busWrite (s : State) (a : BusAddr) (raw : List Byte) : Serves s (s.busWrite a raw) :=
  .unlessScope fun hs => .next (.writeAnd hs a raw)

theorem Serves.encodeAndWrite (s : State) (l : Nat) (vals : List (Key × Operand)) (a : BusAddr) :
    Serves s (s.encodeAndWrite l vals a) := by
  obtain ⟨raw, -, h⟩ | ⟨e, -, h⟩ := encodeAndWrite_spec s l vals a
  · rw [h]
    exact .busWrite s a raw
  · rw [h]
    exact .next (.respond s _)

/-- A call that read a composite ends with one response, or its decoder stops it. -/
theorem Serves.endReading {s u : State} (h : ∀ r, Served s (u.respond r))
    (r : Except Error (List Byte)) (dec : List Byte → Host.Outcome (Except Error Rat) Fault Refusal)
    (result : Rat → Result) : Serves s (endReading r u dec result) := by
  cases r with
  | error e => exact .next (h _)
  | ok raw =>
    rw [Machine.endReading]
    cases dec raw with
    | next o => exact .next (State.answer_eq u (o.map result) ▸ h _)
    | fault f => exact .fault s f
    | refused f => exact .refused s f

/-- A composite read and its decoding, under one scope. -/
theorem Serves.readComposite (s : State) (as : List BusAddr)
    (dec : List Byte → Host.Outcome (Except Error Rat) Fault Refusal) (result : Rat → Result) :
    Serves s (s.unlessScope (Machine.endReading (Machine.readComposite as s).1
      (Machine.readComposite as s).2 dec result)) :=
  .unlessScope fun hs => .endReading (.readComposite hs as) _ dec result

/-- A delivered word of one register, and its decoding. -/
theorem Serves.delivered (s : State) {a : BusAddr} {n : Nat} (hlen : registerLength a = some n)
    (o : Except Error Result) : Serves s (s.unlessScope (.next ((s.delivered [a] n).answer o))) :=
  .unlessScope fun _ => .next (.reads_answer (.delivered s (by simpa using hlen)) o)

/-- A delivered composite word, and its decoding. -/
theorem Serves.deliveredComposite (s : State) {as : List BusAddr}
    (hlen : ∀ a ∈ as, registerLength a = some 1) (o : Except Error Result) :
    Serves s (s.unlessScope (.next ((s.deliveredComposite as).answer o))) :=
  .unlessScope fun hs => .next <| State.answer_eq _ o ▸
    .composite hs (.delivered s.enterScope hlen) _

/-! ### Every step serves an item -/

theorem serves_operation {i : Instr} (h : sourceOf i = .requestPort) (s : State) :
    Serves s (exec i s) := by
  obtain ⟨o, ho⟩ := exec_operation h
  exact ho s ▸ .next (.answer s _)

theorem serves_exec (i : Instr) (s : State) : Serves s (exec i s) := by
  cases i with
  | encode | unpack | decflags | decp24 | dect16 | decu16 | tolux | lookup | lkrefresh | modecmd =>
    exact serves_operation rfl s
  | fmtAlsConf | fmtAlsWh | fmtAlsWl | fmtPsm =>
    simp only [exec, execFmtAlsConf, execFmtAlsWh, execFmtAlsWl, execFmtPsm]
    exact .encodeAndWrite s _ _ _
  | fmtAlsInt low high => exact .delivered s rfl _
  | fmtU16 white v =>
    have hlen : registerLength (alsReg (if white then 0x05#8 else 0x04#8)) = some 2 := by
      cases white <;> rfl
    exact .delivered s hlen _
  | fmtP24 v => exact .deliveredComposite s (by decide) _
  | fmtT16 v => exact .deliveredComposite s (by decide) _
  | fmtCmd | cmdCombined | cmdSingleTemperature | cmdSinglePressure | cmdDormant63ms
  | cmdDormant125ms | cmdDormant1s => exact .busWrite s _ _

theorem serves_runWord (src : Source) (raw : List Byte) (s : State) :
    Serves s (runWord src raw s) := by
  cases h : decode src raw with
  | ok i => exact runWord_of_decode_ok h s ▸ serves_exec i s
  | error e => exact runWord_of_decode_error h s ▸ .next (.respond s _)

theorem serves_runCall (c : Call) (s : State) : Serves s (runCall c s) := by
  cases c with
  | getPressure | getTemperature =>
    simp only [runCall, callGetPressure, callGetTemperature]
    exact .ifAttempts (.readComposite s _ _ _)
  | getAmbientLux | getWhiteCount | readWithRetry =>
    exact .ifAttempts (.unlessScope fun _ => .next (.readInTurns s _ _ _ _))
  | readRegister a n =>
    exact .unlessScope fun _ => .next (.reads_answer (.readRegister a n s) _)
  | setConfig | setPowerSaveMode | setThresholdWindow => exact .encodeAndWrite s _ _ _
  | setMode | writeRegister => exact .busWrite s _ _

theorem serves_runItem (i : Item) (s : State) : Serves s (runItem i s) := by
  cases i with
  | request _ r => exact serves_runWord _ _ s
  | word _ r raw => exact serves_runWord _ _ s
  | call args c => exact fun t ht => (serves_runCall c _ t ht).of_frame rfl rfl rfl
  | reset _ _ => exact .next (.resetNow s)

/-- What a step can do: with nothing pending it waits, and else it serves the oldest item. -/
theorem served_of_step {s t : State} (h : step s = .next t) : t = s ∨ Served s t := by
  cases hp : s.pending with
  | nil =>
    rw [step_of_pending_nil hp] at h
    cases h
    exact .inl rfl
  | cons i rest =>
    rw [step_of_pending_cons hp] at h
    exact .inr ((serves_runItem i _ t h).of_frame rfl rfl rfl)

theorem Served.good {s t : State} (h : Served s t) (hs : s.Good) : t.Good := by
  obtain ⟨es, hes, hscope, hwhole⟩ := h.trace
  rw [hs.scope] at hscope
  refine ⟨h.tables ▸ hs.tables, h.port, h.scope.trans hs.scope, ?_, ?_⟩
  · rw [hes, scopeAfter_append, hs.trace, Option.bind_some, hscope]
  · rw [hes, List.all_append, hs.transfers, hwhole, Bool.and_self]

/-- Settles O41: serving an item keeps each part of the invariant, and waiting changes nothing. -/
theorem stepKeepsStatesGood : Obligations.StepKeepsStatesGood := by
  intro s t hs hstep
  obtain rfl | h := served_of_step hstep
  · exact hs
  · exact h.good hs

/-- Settles O40: no item that is served writes the tables. -/
theorem noStepChangesTheTables : Obligations.NoStepChangesTheTables := by
  intro s t hstep
  obtain rfl | h := served_of_step hstep
  · rfl
  · exact h.tables

theorem tablesWf_tables : tablesWf Config.tables = true := by
  unfold Config.tables
  split
  · assumption
  · decide

/-- Settles O42: the tables of `State.reset` are admissible, and every other part is a constant. -/
theorem resetIsGood : Obligations.ResetIsGood :=
  ⟨⟨tablesWf_tables, rfl, rfl, rfl, rfl⟩, rfl, rfl, rfl⟩

/-! ### A step on a request is the block's function -/

/-- The `op` nibble of a request code (30_encoding.md R74). -/
theorem toNat_opcode (code : Byte) : (code.extractLsb' 4 4).toNat = code.toNat / 16 := by
  have h := code.isLt
  rw [BitVec.extractLsb'_toNat, Nat.shiftRight_eq_div_pow]
  omega

theorem runWord_operation {src : Source} {raw : List Byte} {i : Instr} {s : State}
    {o : Except Error Result} (hd : decode src raw = .ok i) (hi : exec i s = .next (s.answer o)) :
    runWord src raw s = .next (s.respond (responseOf o)) := by
  rw [runWord_of_decode_ok hd, hi, State.answer_eq]

/-- The table of request codes (30_encoding.md R75), row by row: the decoder and the instruction's meaning
on one side, the block's function on the other. -/
theorem runWord_request {r : Request} {s : State} (hport : s.port = r.inputs) :
    runWord .requestPort [r.code] s = .next (s.respond (blockFunction s.tables r)) := by
  rw [blockFunction, ← hport]
  split
  case h_11 =>
    have hd : decode .requestPort [r.code] = .error .illegalRequest := by
      simp_all only [decode, decodeRequest, toNat_opcode]
    exact runWord_of_decode_error hd s
  all_goals
    next hop =>
      apply runWord_operation
      · rw [decode, decodeRequest, toNat_opcode, hop]
        rfl
      · rfl

/-- Settles O38: taking the item from the queue puts its lines at the port, and its code is then run. -/
theorem stepRefinesTheBlockFunction : Obligations.StepRefinesTheBlockFunction := by
  intro s p r rest hp
  calc step s
      = runWord .requestPort [r.code] (s.accept (.request p r) rest) := step_of_pending_cons hp
    _ = .next ((s.accept (.request p r) rest).respond (blockFunction s.tables r)) :=
        runWord_request rfl

/-! ### Requests are answered in order -/

/-- `n` steps of the machine. -/
abbrev run (n : Nat) (s : State) : Host.Outcome State Fault Refusal :=
  Host.Core.run Sys2Proof.core n s

theorem run_succ_of_step {s t : State} (h : step s = .next t) (n : Nat) :
    run (n + 1) s = run n t := by
  have hcore : Sys2Proof.core.step s = .next t := h
  simp only [run, Host.Core.run, hcore]
  rfl

theorem run_add_of_run {m : Nat} {s t : State} (h : run m s = .next t) (n : Nat) :
    run (m + n) s = run n t := by
  induction m generalizing s with
  | zero =>
    cases h
    rw [Nat.zero_add]
  | succ m ih =>
    cases hstep : step s with
    | next u =>
      rw [run_succ_of_step hstep] at h
      rw [Nat.succ_add, run_succ_of_step hstep, ih h]
    | fault f =>
      have hcore : Sys2Proof.core.step s = .fault f := hstep
      simp [run, Host.Core.run, hcore] at h
    | refused f =>
      have hcore : Sys2Proof.core.step s = .refused f := hstep
      simp [run, Host.Core.run, hcore] at h

/-- The items of some requests, each with the caller that presents it. -/
def requestItems (rs : List (Nat × Request)) : List Item :=
  rs.map (fun e => .request e.1 e.2)

/-- The responses of the block's function to some requests. -/
def requestResponses (t : Tables) (rs : List (Nat × Request)) : List Response :=
  rs.map (fun e => blockFunction t e.2)

/-- `s` after the requests `rs`, which leave the items `rest`: the request lines are idle again, where
there was a request. -/
def State.answered (s : State) (rs : List (Nat × Request)) (rest : List Item) : State :=
  { s with
    pending := rest
    port := if rs = [] then s.port else PortInputs.idle
    responses := s.responses ++ requestResponses s.tables rs }

/-- Answering requests from idle lines. -/
theorem State.answered_of_idle {s : State} (hs : s.port = PortInputs.idle)
    (rs : List (Nat × Request)) (rest : List Item) :
    s.answered rs rest = { s with
      pending := rest, responses := s.responses ++ requestResponses s.tables rs } := by
  simp only [State.answered, hs, ite_self]

theorem run_requests {rs : List (Nat × Request)} {s : State} {rest : List Item}
    (hp : s.pending = requestItems rs ++ rest) :
    run rs.length s = .next (s.answered rs rest) := by
  induction rs generalizing s with
  | nil =>
    have hrest : s.pending = rest := hp
    subst hrest
    simp only [State.answered, requestResponses, List.map_nil, List.append_nil, if_pos]
    rfl
  | cons e rs ih =>
    have hstep := stepRefinesTheBlockFunction s e.1 e.2 (requestItems rs ++ rest) hp
    rw [List.length_cons, run_succ_of_step hstep, ih rfl, State.answered_of_idle rfl]
    simp [State.answered, requestResponses]

theorem step_reset {s : State} {p : Nat} {during : Option Request} {rest : List Item}
    (hp : s.pending = .reset p during :: rest) :
    step s = .next { s with pending := rest, port := PortInputs.idle } :=
  step_of_pending_cons hp

/-- Requests with one reset among them: the reset is one more step, which answers nothing. -/
theorem run_requests_reset {rs qs : List (Nat × Request)} {s : State} {p : Nat}
    {during : Option Request} {rest : List Item}
    (hp : s.pending = requestItems rs ++ .reset p during :: (requestItems qs ++ rest)) :
    run (rs.length + 1 + qs.length) s = .next { s with
      pending := rest, port := PortInputs.idle,
      responses := s.responses ++ requestResponses s.tables (rs ++ qs) } := by
  have hreset : step (s.answered rs (.reset p during :: (requestItems qs ++ rest))) =
      .next { s.answered rs (requestItems qs ++ rest) with port := PortInputs.idle } :=
    step_reset rfl
  rw [Nat.add_assoc, run_add_of_run (run_requests hp), Nat.add_comm 1, run_succ_of_step hreset,
    run_requests rfl, State.answered_of_idle rfl]
  simp [State.answered, requestResponses]

/-- Settles O39, by induction on the requests before a reset and on those after it. -/
theorem requestsAreAnsweredInOrder : Obligations.RequestsAreAnsweredInOrder :=
  ⟨fun rs s rest hp => ⟨s.answered rs rest, run_requests hp, rfl, rfl, rfl, rfl⟩,
    fun _ _ _ _ _ _ hp => run_requests_reset hp⟩

/-! ### Command bytes on the bus -/

/-- An accepted write draws one answer of Transport, which alone decides its end
(43_environment_ops.md R146, R149). -/
theorem writeAnd_eq_afterWrite {a : BusAddr} {raw : List Byte}
    (hlen : registerLength a = some raw.length) (s : State) :
    s.writeAnd a raw = afterWrite s a raw := by
  obtain ⟨sc, n, hframe⟩ := nextAnswer_frame s
  rcases hA : nextAnswer s with ⟨ans, u⟩
  rw [hA] at hframe
  subst hframe
  cases ans <;> simp [State.writeAnd, writeRegister, afterWrite, writeEnd, hlen, hA, State.event,
    State.raise, State.respond]

theorem busWrite_eq_afterWrite {s : State} (hs : s.scope = false) {a : BusAddr} {raw : List Byte}
    (hlen : registerLength a = some raw.length) : s.busWrite a raw = .next (afterWrite s a raw) := by
  rw [busWrite_released hs, writeAnd_eq_afterWrite hlen]

theorem command_eq_afterWrite {s : State} (hs : s.scope = false) (m : Mode) :
    s.command m = .next (afterWrite s (ptReg 0x30#8) [modeByte m]) :=
  busWrite_eq_afterWrite hs rfl

/-- Settles O34: each command byte is its mode's, and a command is one write. -/
theorem commandBytesReachTheCommandRegister : Obligations.CommandBytesReachTheCommandRegister := by
  rintro i b (⟨rfl, rfl⟩ | ⟨rfl, rfl⟩ | ⟨rfl, rfl⟩ | ⟨rfl, rfl⟩ | ⟨rfl, rfl⟩ | ⟨rfl, rfl⟩) s hs
  · exact command_eq_afterWrite hs .combined
  · exact command_eq_afterWrite hs .singleTemperature
  · exact command_eq_afterWrite hs .singlePressure
  · exact command_eq_afterWrite hs .dormant63ms
  · exact command_eq_afterWrite hs .dormant125ms
  · exact command_eq_afterWrite hs .dormant1s

/-! ### MODECMD -/

theorem exec_modecmd_of_mode {m : ModeSel} {mode : Mode} (h : modeOfId m.bits.toNat = some mode)
    (s : State) : exec (.modecmd m) s = .next (s.respond (.ok (.bytes [modeByte mode]))) := by
  have hrsp : modecmdRsp m = .ok (.bytes [modeByte mode]) := by
    simp only [modecmdRsp, modecmdOp, h, Except.map]
  rw [exec, execModecmd, hrsp, State.answer_ok]

theorem exec_modecmd_of_no_mode {m : ModeSel} (h : modeOfId m.bits.toNat = none) (s : State) :
    exec (.modecmd m) s = .next (s.respond (.err .configurationError)) := by
  have hrsp : modecmdRsp m = .error .configurationError := by
    simp only [modecmdRsp, modecmdOp, h, Except.map]
  rw [exec, execModecmd, hrsp, State.answer_error]

theorem modeOfId_eq_none {m : Nat} (h : 6 ≤ m) : modeOfId m = none := by
  obtain ⟨k, rfl⟩ := Nat.exists_eq_add_of_le' h
  rfl

/-- Settles O32: an identifier below 6 names its mode, and no other does. -/
theorem modecmdGivesTheCommandByte : Obligations.ModecmdGivesTheCommandByte := fun s =>
  ⟨exec_modecmd_of_mode (mode := .combined) rfl s,
    exec_modecmd_of_mode (mode := .singleTemperature) rfl s,
    exec_modecmd_of_mode (mode := .singlePressure) rfl s,
    exec_modecmd_of_mode (mode := .dormant63ms) rfl s,
    exec_modecmd_of_mode (mode := .dormant125ms) rfl s,
    exec_modecmd_of_mode (mode := .dormant1s) rfl s,
    fun _ hm => exec_modecmd_of_no_mode (modeOfId_eq_none hm) s⟩

/-! ### Inputs that are don't-cares -/

/-- The request lines do not survive the operation (10_state.md R36), so that only the answer can depend on
them. -/
theorem next_answer_of_port (s : State) {p : PortInputs} {o o' : Except Error Result} (h : o = o') :
    (.next (s.answer o) : Host.Outcome State Fault Refusal) =
      .next (({ s with port := p } : State).answer o') := by
  rw [State.answer_eq, State.answer_eq, h]
  rfl

theorem encodeRsp_of_slots {p q : PortInputs} (h : p.slots = q.slots) (t : Tables) (l : LayoutSel) :
    encodeRsp t l p = encodeRsp t l q := by
  simp only [encodeRsp, portValues, h]

section RawBytes
variable {p q : PortInputs} (h : p.raw = q.raw)
include h

theorem unpackRsp_of_raw (l : LayoutSel) : unpackRsp l p = unpackRsp l q := by
  rw [unpackRsp, unpackRsp, h]

theorem decflagsRsp_of_raw (l : LayoutSel) : decflagsRsp l p = decflagsRsp l q := by
  rw [decflagsRsp, decflagsRsp, h]

theorem decp24Rsp_of_raw : decp24Rsp p = decp24Rsp q := by rw [decp24Rsp, decp24Rsp, h]

theorem dect16Rsp_of_raw : dect16Rsp p = dect16Rsp q := by rw [dect16Rsp, dect16Rsp, h]

theorem decu16Rsp_of_raw : decu16Rsp p = decu16Rsp q := by rw [decu16Rsp, decu16Rsp, h]

end RawBytes

section SlotZero
variable {p q : PortInputs} (h : p.slot0.val = q.slot0.val)
include h

theorem toluxRsp_of_slot0 (r : BitVec 2) : toluxRsp r p = toluxRsp r q := by
  rw [toluxRsp, toluxRsp, h]

theorem lookupRsp_of_slot0 (t : Tables) (f : FieldSel) : lookupRsp t f p = lookupRsp t f q := by
  simp only [lookupRsp, h]

theorem lkrefreshRsp_of_slot0 (t : Tables) : lkrefreshRsp t p = lkrefreshRsp t q := by
  rw [lkrefreshRsp, lkrefreshRsp, h]

end SlotZero

/-- Settles O37: each operation's answer reads the lines that its rule names, and nothing else of them is
left in the next state. -/
theorem unnamedInputsAreDontCares : Obligations.UnnamedInputsAreDontCares := by
  intro s p
  refine ⟨fun hslots l => ?_, fun hraw => ⟨fun l => ?_, fun l => ?_, fun x y => ?_, fun x y => ?_,
    fun x y => ?_⟩, fun hval => ⟨fun x y r => ?_, fun f => ?_, fun x y => ?_⟩, fun m => ?_⟩
  · exact next_answer_of_port s (encodeRsp_of_slots hslots.symm s.tables l)
  · exact next_answer_of_port s (unpackRsp_of_raw hraw.symm l)
  · exact next_answer_of_port s (decflagsRsp_of_raw hraw.symm l)
  · exact next_answer_of_port s (decp24Rsp_of_raw hraw.symm)
  · exact next_answer_of_port s (dect16Rsp_of_raw hraw.symm)
  · exact next_answer_of_port s (decu16Rsp_of_raw hraw.symm)
  · exact next_answer_of_port s (toluxRsp_of_slot0 hval.symm r)
  · exact next_answer_of_port s (lookupRsp_of_slot0 hval.symm s.tables f)
  · exact next_answer_of_port s (lkrefreshRsp_of_slot0 hval.symm s.tables)
  · exact next_answer_of_port s rfl

/-! ### Status codes -/

/-- Settles O55: the status of a response is the table of 60_exceptions.md R166 read row by row. -/
theorem statusCodesAreTheTables : Obligations.StatusCodesAreTheTables :=
  ⟨fun _ => rfl, rfl, rfl, rfl, rfl, rfl, rfl, rfl, rfl⟩

/-! ### TOLUX -/

/-- A resolution in units of 0.0001 lux (10_state.md R39). -/
theorem resolution_eq (r : BitVec 2) : resolution r = ((288 >>> r.toNat : Nat) : Rat) / 10000 := by
  have hcases : r.toNat = 0 ∨ r.toNat = 1 ∨ r.toNat = 2 ∨ r.toNat = 3 := by omega
  rw [resolution]
  obtain h | h | h | h := hcases <;> rw [h] <;> norm_num [Nat.shiftRight_eq_div_pow]

theorem resolution_succ {r : BitVec 2} (h : r.toNat < 3) :
    resolution r = 2 * resolution (r + 1) := by
  have hunits : 288 >>> r.toNat = 2 * (288 >>> (r + 1).toNat) := by
    revert r
    decide
  rw [resolution_eq, resolution_eq, hunits, Nat.cast_mul, Nat.cast_ofNat, mul_div_assoc]

theorem toluxOp_eq (count : Nat) (r : BitVec 2) :
    toluxOp count r = ((count * (288 >>> r.toNat) : Nat) : Rat) / 10000 := by
  rw [toluxOp, resolution_eq]
  push_cast
  ring

/-- Every product fits the 32 bits of the port: the largest is 65535 counts at the first resolution. -/
theorem luxUnits_le (count : BitVec 16) (r : BitVec 2) :
    count.toNat * (288 >>> r.toNat) ≤ 18874080 :=
  calc count.toNat * (288 >>> r.toNat)
      ≤ 65535 * 288 := Nat.mul_le_mul (by omega) (Nat.shiftRight_le 288 r.toNat)
    _ = 18874080 := rfl

/-- Settles O23: the product fits the port, so that its 32 bits are the exact product; linearity and the
halving come from the resolutions. -/
theorem toluxIsTheExactProduct : Obligations.ToluxIsTheExactProduct := by
  refine ⟨fun s x r => ?_, ⟨rfl, rfl, rfl, rfl⟩, fun a b r => ⟨?_, ?_⟩, fun a r hr => ?_, ?_⟩
  · have hle := luxUnits_le s.port.slot0.val r
    have hn : (BitVec.ofNat 32 (s.port.slot0.val.toNat * (288 >>> r.toNat))).toNat =
        s.port.slot0.val.toNat * (288 >>> r.toNat) := by
      rw [BitVec.toNat_ofNat, Nat.mod_eq_of_lt (by omega)]
    exact ⟨_, rfl, hn, hn.trans_le hle, by rw [hn, toluxOp_eq]⟩
  · rw [toluxOp, toluxOp, toluxOp, Nat.cast_add, add_mul]
  · rw [toluxOp, Nat.cast_zero, zero_mul]
  · rw [toluxOp, toluxOp, resolution_succ hr, mul_left_comm]
  · have hres : resolution 0 = 288 / 10000 := rfl
    rw [toluxOp, hres]
    norm_num

/-! ### Namespaces -/

/-- The rows of one namespace decide what a search of that namespace finds. -/
theorem find?_of_sameRows {α : Type} {rows rows' : List α} {inSpace : α → Bool}
    (h : rows.filter inSpace = rows'.filter inSpace) (q : α → Bool) :
    rows.find? (fun r => inSpace r && q r) = rows'.find? (fun r => inSpace r && q r) := by
  simpa only [List.find?_filter, Bool.decide_and, Bool.decide_eq_true] using congrArg (List.find? q) h

section SameSpace
variable {t u : Tables} {space : Namespace} (h : sameSpace t u space)
include h

theorem optCode_of_sameSpace (o : String) : optCode t space o = optCode u space o := by
  rw [optCode, optCode, find?_of_sameRows h.1]

theorem optName_of_sameSpace (index : BitVec 16) : optName t space index = optName u space index := by
  rw [optName, optName, find?_of_sameRows h.2]

theorem lookupRsp_of_sameSpace {f : FieldSel} (hf : namespaceOfId f.bits.toNat = some space)
    (p : PortInputs) : lookupRsp t f p = lookupRsp u f p := by
  simp only [lookupRsp, lookupOp, hf, optName_of_sameSpace h, optCode_of_sameSpace h]

theorem resolveField_of_sameSpace {f : Field} (hf : fieldSpace f = some space)
    (vals : List (Key × Operand)) (w : Nat) : resolveField t vals f w = resolveField u vals f w := by
  simp only [resolveField, hf, optCode_of_sameSpace h]

end SameSpace

theorem namespaceOfId_eq_none {k : Nat} (h : 6 < k) : namespaceOfId k = none := by
  obtain ⟨j, rfl⟩ := Nat.exists_eq_add_of_le' h
  rfl

/-- Settles O27: the identifiers and fields are R26's table, and every search of the open tables is of one
namespace's rows. -/
theorem namespacesAreSeparate : Obligations.NamespacesAreSeparate := by
  refine ⟨⟨rfl, rfl, rfl, rfl, rfl, rfl, rfl, rfl, rfl, rfl, rfl, rfl, rfl, rfl,
    fun _ => namespaceOfId_eq_none, by decide⟩, fun f space s t hf hsame hport => ?_,
    fun f space t u vals w hf hsame => resolveField_of_sameSpace hsame hf vals w⟩
  refine ⟨responseOf (lookupRsp s.tables f s.port), ?_, ?_⟩
  · rw [exec, execLookup, State.answer_eq]
  · rw [exec, execLookup, State.answer_eq, hport, lookupRsp_of_sameSpace hsame hf]

end Sys2Proof.Machine

/-! The statements of 20_memory.md: the register map and its words, what stops at a held scope, reads with
the retry policy and in turns, and the order of the callers' accesses. -/

namespace Sys2Proof.Machine

open Laws.EncodedLength (sourceLength)

/-! ### The byte count of a register word -/

theorem word8_of_length {raw : List Byte} (h : raw.length = 1) : ∃ v, word8 raw = .ok v := by
  obtain ⟨b, rfl⟩ := List.length_eq_one_iff.mp h
  exact ⟨_, rfl⟩

theorem word16_of_length {raw : List Byte} (h : raw.length = 2) : ∃ v, word16 raw = .ok v := by
  obtain ⟨b, c, rfl⟩ := List.length_eq_two.mp h
  exact ⟨_, rfl⟩

theorem word24_of_length {raw : List Byte} (h : raw.length = 3) : ∃ v, word24 raw = .ok v := by
  obtain ⟨b, c, d, rfl⟩ := List.length_eq_three.mp h
  exact ⟨_, rfl⟩

theorem word8_of_length_ne {raw : List Byte} (h : raw.length ≠ 1) :
    word8 raw = .error .malformedLength := by
  unfold word8
  split
  · exact absurd rfl h
  · rfl

theorem word16_of_length_ne {raw : List Byte} (h : raw.length ≠ 2) :
    word16 raw = .error .malformedLength := by
  unfold word16
  split
  · exact absurd rfl h
  · rfl

theorem word24_of_length_ne {raw : List Byte} (h : raw.length ≠ 3) :
    word24 raw = .error .malformedLength := by
  unfold word24
  split
  · exact absurd rfl h
  · rfl

theorem sourceOf_decodeCommand (c : Byte) : sourceOf (decodeCommand c) = .register .command := by
  unfold decodeCommand
  split_ifs <;> rfl

/-- A word of its register's byte count decodes to an instruction of that register (20_memory.md R46). -/
theorem decode_register_of_length {w : RegWord} {raw : List Byte}
    (h : raw.length = sourceLength (.register w)) :
    ∃ i, decode (.register w) raw = .ok i ∧ sourceOf i = .register w := by
  cases w with
  | alsConf | alsWh | alsWl | alsInt | ambient | white | temperature =>
    obtain ⟨v, hv⟩ := word16_of_length h
    exact ⟨_, by rw [decode, decodeWord, hv]; rfl, rfl⟩
  | psm =>
    obtain ⟨v, hv⟩ := word8_of_length h
    exact ⟨_, by rw [decode, decodeWord, hv]; rfl, rfl⟩
  | command =>
    obtain ⟨v, hv⟩ := word8_of_length h
    exact ⟨_, by rw [decode, decodeWord, hv]; rfl, sourceOf_decodeCommand v⟩
  | pressure =>
    obtain ⟨v, hv⟩ := word24_of_length h
    exact ⟨_, by rw [decode, decodeWord, hv]; rfl, rfl⟩

theorem decode_register_of_length_ne {w : RegWord} {raw : List Byte}
    (h : raw.length ≠ sourceLength (.register w)) :
    decode (.register w) raw = .error .malformedLength := by
  cases w with
  | alsConf | alsWh | alsWl | alsInt | ambient | white | temperature =>
    rw [decode, decodeWord, word16_of_length_ne h]
    rfl
  | psm | command =>
    rw [decode, decodeWord, word8_of_length_ne h]
    rfl
  | pressure =>
    rw [decode, decodeWord, word24_of_length_ne h]
    rfl

theorem sourceOf_of_decode_register {w : RegWord} {raw : List Byte} {i : Instr}
    (h : decode (.register w) raw = .ok i) : sourceOf i = .register w := by
  by_cases hlen : raw.length = sourceLength (.register w)
  · obtain ⟨j, hj, hsource⟩ := decode_register_of_length hlen
    rw [hj] at h
    cases h
    exact hsource
  · rw [decode_register_of_length_ne hlen] at h
    cases h

/-- Settles O56: `n` is the byte count of the word's register, on which decoding alone depends. -/
theorem malformedWordsAreProtocolErrors : Obligations.MalformedWordsAreProtocolErrors := by
  intro w n hw raw
  have hn : n = sourceLength (.register w) := by
    obtain ⟨hw, rfl⟩ | ⟨hw, rfl⟩ | ⟨rfl, rfl⟩ := hw
    · revert w
      decide
    · revert w
      decide
    · rfl
  subst hn
  refine ⟨fun hlen s p rest hp => ?_, decode_register_of_length⟩
  calc step s
      = runWord (.register w) raw (s.accept (.word p w raw) rest) := step_of_pending_cons hp
    _ = .next ((s.accept (.word p w raw) rest).raise .protocolError) :=
        runWord_of_decode_error (decode_register_of_length_ne hlen) _

/-! ### ENCODE of codes that are in range -/

theorem lookup_codes {fs : List Field} {f : Field} (c : Field → Int) (h : f ∈ fs) :
    (fs.map (fun g => (Key.field g, Operand.code (c g)))).lookup (.field f) = some (.code (c f)) := by
  induction fs with
  | nil => exact absurd h List.not_mem_nil
  | cons g fs ih =>
    by_cases hg : f = g
    · subst hg
      simp
    · have hne : (Key.field f == .field g) = false := by simpa using hg
      rw [List.map_cons, List.lookup_cons, hne]
      exact ih (List.mem_of_ne_of_mem hg h)

theorem keysKnown_codesOf (lay : Layout) (c : Field → Int) :
    keysKnown (layoutFields lay) (codesOf lay c) = true := by
  simp [keysKnown, codesOf]

/-- ENCODE of a legal code for each field is the whole buffer that the codes assemble to
(40_codec.md R90, R91). -/
theorem encodeOp_codesOf {l : Nat} {lay : Layout} {c : Field → Int} (hl : layoutOfId l = some lay)
    (hc : ∀ f w, .field f w ∈ layoutItems lay → 0 ≤ c f ∧ c f < 2 ^ w) (t : Tables) :
    encodeOp t l (codesOf lay c) =
      .ok (bytesOf (layoutLen lay) (assembled (fun f => (c f).toNat) (layoutItems lay))) := by
  have hresolve : ∀ f w, .field f w ∈ layoutItems lay →
      resolveField t (codesOf lay c) f w = .ok (c f).toNat := by
    intro f w hm
    obtain ⟨h0, h1⟩ := hc f w hm
    have hf : f ∈ layoutFields lay := mem_itemFields.mpr ⟨w, hm⟩
    rw [resolveField, codesOf, lookup_codes c hf]
    exact checkRange_ok h0 h1
  simp only [encodeOp, hl, encodeLayout, keysKnown_codesOf, if_true, assemble_ok hresolve, Nat.zero_mul,
    Nat.zero_add, Except.map]

theorem encodeAndWrite_codesOf {l : Nat} {lay : Layout} {c : Field → Int}
    (hl : layoutOfId l = some lay)
    (hc : ∀ f w, .field f w ∈ layoutItems lay → 0 ≤ c f ∧ c f < 2 ^ w) (s : State)
    (a : BusAddr) : ∃ raw, s.encodeAndWrite l (codesOf lay c) a = s.busWrite a raw :=
  ⟨_, by rw [State.encodeAndWrite, encodeOp_codesOf hl hc]⟩

/-- The codes of a window's two bytes. -/
def windowCodes (msb lsb : Int) (f : Field) : Int :=
  match f with
  | .msb => msb
  | _ => lsb

/-- The codes of fmt.ALS_CONF's fields. -/
def alsConfCodes (gain : BitVec 2) (it : BitVec 4) (pers : BitVec 2) (intEn sd : BitVec 1) (f : Field) :
    Int :=
  match f with
  | .gain => gain.toNat
  | .it => it.toNat
  | .pers => pers.toNat
  | .intEn => intEn.toNat
  | _ => sd.toNat

/-- The codes of fmt.PSM's fields. -/
def psmCodes (mode : BitVec 2) (en : BitVec 1) (f : Field) : Int :=
  match f with
  | .psmMode => mode.toNat
  | _ => en.toNat

theorem windowCodes_fit {lay : Layout} (hlay : lay = .alsWh ∨ lay = .alsWl) {m b : Int} (hm : 0 ≤ m)
    (hm' : m ≤ 255) (hb : 0 ≤ b) (hb' : b ≤ 255) (f : Field) (w : Nat)
    (h : .field f w ∈ layoutItems lay) : 0 ≤ windowCodes m b f ∧ windowCodes m b f < 2 ^ w := by
  obtain rfl | rfl := hlay <;>
  · simp only [layoutItems, List.mem_cons, LayoutItem.field.injEq, List.not_mem_nil, or_false] at h
    obtain ⟨rfl, rfl⟩ | ⟨rfl, rfl⟩ := h <;> simp only [windowCodes] <;> omega

theorem windowCodes_fit_bytes {lay : Layout} (hlay : lay = .alsWh ∨ lay = .alsWl) (msb lsb : Byte) :
    ∀ f w, .field f w ∈ layoutItems lay →
      0 ≤ windowCodes msb.toNat lsb.toNat f ∧ windowCodes msb.toNat lsb.toNat f < 2 ^ w :=
  windowCodes_fit hlay (by omega) (by omega) (by omega) (by omega)

theorem alsConfCodes_fit (gain : BitVec 2) (it : BitVec 4) (pers : BitVec 2) (intEn sd : BitVec 1)
    (f : Field) (w : Nat) (h : .field f w ∈ layoutItems .alsConf) :
    0 ≤ alsConfCodes gain it pers intEn sd f ∧ alsConfCodes gain it pers intEn sd f < 2 ^ w := by
  simp only [layoutItems, List.mem_cons, LayoutItem.field.injEq, List.not_mem_nil, reduceCtorEq,
    or_false, false_or] at h
  obtain ⟨rfl, rfl⟩ | ⟨rfl, rfl⟩ | ⟨rfl, rfl⟩ | ⟨rfl, rfl⟩ | ⟨rfl, rfl⟩ := h <;>
    simp only [alsConfCodes] <;> omega

theorem psmCodes_fit (mode : BitVec 2) (en : BitVec 1) (f : Field) (w : Nat)
    (h : .field f w ∈ layoutItems .psm) : 0 ≤ psmCodes mode en f ∧ psmCodes mode en f < 2 ^ w := by
  simp only [layoutItems, List.mem_cons, LayoutItem.field.injEq, List.not_mem_nil, reduceCtorEq,
    or_false, false_or] at h
  obtain ⟨rfl, rfl⟩ | ⟨rfl, rfl⟩ := h <;> simp only [psmCodes] <;> omega

/-! ### Register words and command bytes are accesses to the bus -/

theorem writeAnd_pending (s : State) (a : BusAddr) (raw : List Byte) :
    (s.writeAnd a raw).pending = s.pending := by
  obtain ⟨x, sc, n, r, h, -, -⟩ := writeAnd_spec s a raw
  rw [h]

theorem unlessScope_held {s : State} (hs : s.scope = true) (k : Host.Outcome State Fault Refusal) :
    s.unlessScope k = .fault .scopeHeld := by
  rw [State.unlessScope, if_pos hs]

theorem unlessScope_released {s : State} (hs : s.scope = false)
    (k : Host.Outcome State Fault Refusal) : s.unlessScope k = k := by
  rw [State.unlessScope, hs, if_neg Bool.false_ne_true]

theorem exec_fmtAlsConf (gain : BitVec 2) (it : BitVec 4) (pers : BitVec 2) (intEn sd : BitVec 1)
    (s : State) : ∃ raw, exec (.fmtAlsConf gain it pers intEn sd) s = s.busWrite (alsReg 0x00#8) raw := by
  rw [exec]
  exact encodeAndWrite_codesOf (lay := .alsConf) rfl (alsConfCodes_fit gain it pers intEn sd) s _

theorem exec_fmtAlsWh (msb lsb : Byte) (s : State) :
    ∃ raw, exec (.fmtAlsWh msb lsb) s = s.busWrite (alsReg 0x01#8) raw := by
  rw [exec]
  exact encodeAndWrite_codesOf (lay := .alsWh) rfl (windowCodes_fit_bytes (.inl rfl) msb lsb) s _

theorem exec_fmtAlsWl (msb lsb : Byte) (s : State) :
    ∃ raw, exec (.fmtAlsWl msb lsb) s = s.busWrite (alsReg 0x02#8) raw := by
  rw [exec]
  exact encodeAndWrite_codesOf (lay := .alsWl) rfl (windowCodes_fit_bytes (.inr rfl) msb lsb) s _

theorem exec_fmtPsm (mode : BitVec 2) (en : BitVec 1) (s : State) :
    ∃ raw, exec (.fmtPsm mode en) s = s.busWrite (alsReg 0x03#8) raw := by
  rw [exec]
  exact encodeAndWrite_codesOf (lay := .psm) rfl (psmCodes_fit mode en) s _

theorem access_of_busWrite {s : State} {a : BusAddr} {o : Host.Outcome State Fault Refusal}
    (h : ∃ raw, o = s.busWrite a raw) :
    ∃ t, o = s.unlessScope (.next t) ∧ t.pending = s.pending := by
  obtain ⟨raw, rfl⟩ := h
  exact ⟨_, rfl, writeAnd_pending s a raw⟩

/-- A register word or command byte is one access to the bus, which leaves the queue as it is. -/
theorem exec_busWord {i : Instr} (h : sourceOf i ≠ .requestPort) (s : State) :
    ∃ t, exec i s = s.unlessScope (.next t) ∧ t.pending = s.pending := by
  cases i with
  | encode | unpack | decflags | decp24 | dect16 | decu16 | tolux | lookup | lkrefresh | modecmd =>
    exact absurd rfl h
  | fmtAlsConf gain it pers intEn sd => exact access_of_busWrite (exec_fmtAlsConf gain it pers intEn sd s)
  | fmtAlsWh msb lsb => exact access_of_busWrite (exec_fmtAlsWh msb lsb s)
  | fmtAlsWl msb lsb => exact access_of_busWrite (exec_fmtAlsWl msb lsb s)
  | fmtPsm mode en => exact access_of_busWrite (exec_fmtPsm mode en s)
  | fmtAlsInt | fmtP24 | fmtT16 | fmtU16 => exact ⟨_, rfl, State.answer_pending _ _⟩
  | fmtCmd | cmdCombined | cmdSingleTemperature | cmdSinglePressure | cmdDormant63ms
  | cmdDormant125ms | cmdDormant1s => exact ⟨_, rfl, writeAnd_pending s _ _⟩

/-! ### What a call can do -/

/-- `t` is `s` with the queue that the call `c` leaves: the same, or `c` put back with no more attempts and
the same caller, behind items from the front of the queue that are none of that caller's
(20_memory.md R50, 92_eei_decisions.md D24). -/
def KeepsOrder (s : State) (c : Call) (t : State) : Prop :=
  t.pending = s.pending ∨
  ∃ left ahead behind, s.pending = ahead ++ behind ∧ t.pending = ahead ++ .call left c :: behind ∧
    left.caller = s.retry.caller ∧ left.maxAttempts ≤ s.retry.maxAttempts ∧
    ∀ j ∈ ahead, j.caller ≠ s.retry.caller

/-- What a call can do: it is refused for want of an attempt, its ENCODE fails, or it is an access to the
bus; and it is the last exactly where it comes to the bus. -/
inductive CallOutcome (s : State) (c : Call) : Host.Outcome State Fault Refusal → Prop where
  | refused (hattempts : s.retry.maxAttempts = 0) (hadm : (Item.call s.retry c).admissible = false)
      (hbus : ¬ comesToTheBus s.tables (.call s.retry c)) :
      CallOutcome s c (.refused .attemptsOutsideDomain)
  | encodeError (e : Error) (hbus : ¬ comesToTheBus s.tables (.call s.retry c)) :
      CallOutcome s c (.next (s.respond (.err e)))
  | access (t : State) (hbus : comesToTheBus s.tables (.call s.retry c)) (horder : KeepsOrder s c t) :
      CallOutcome s c (s.unlessScope (.next t))

/-- A call that reads with the retry policy, in a scope or in turns. -/
theorem CallOutcome.read {s t : State} {c : Call}
    (hadm : (Item.call s.retry c).admissible = decide (1 ≤ s.retry.maxAttempts))
    (hbus : comesToTheBus s.tables (.call s.retry c) ↔ (Item.call s.retry c).admissible = true)
    (horder : KeepsOrder s c t) : CallOutcome s c (s.ifAttempts (s.unlessScope (.next t))) := by
  by_cases h : s.retry.maxAttempts = 0
  · rw [h] at hadm
    rw [State.ifAttempts, if_pos h]
    exact .refused h hadm (by simp [hbus, hadm])
  · rw [State.ifAttempts, if_neg h]
    refine .access t (hbus.mpr (hadm.trans ?_)) horder
    exact decide_eq_true (Nat.pos_of_ne_zero h)

/-- A call that encodes and then writes. -/
theorem CallOutcome.encodeAndWrite {s : State} {c : Call} {l : Nat} {vals : List (Key × Operand)}
    (hbus : comesToTheBus s.tables (.call s.retry c) ↔ ∃ raw, encodeOp s.tables l vals = .ok raw)
    (a : BusAddr) : CallOutcome s c (s.encodeAndWrite l vals a) := by
  obtain ⟨raw, hraw, h⟩ | ⟨e, he, h⟩ := encodeAndWrite_spec s l vals a
  · rw [h]
    exact .access _ (hbus.mpr ⟨raw, hraw⟩) (.inl (writeAnd_pending s a raw))
  · rw [h]
    exact .encodeError e (by simp [hbus, he])

theorem KeepsOrder.readInTurns (s : State) (a : BusAddr) (n : Nat) (c : Call)
    (finish : List Byte → Except Error Result) : KeepsOrder s c (s.readInTurns a n c finish) := by
  obtain ⟨t, hreads, ⟨r, ht⟩ | ⟨-, ht⟩⟩ := readInTurns_spec s a n c finish
  · exact .inl (by rw [ht]; exact hreads.pending)
  · have hpending : t.pending = s.pending := hreads.pending
    obtain ⟨hsplit, hahead⟩ := itemsAhead_spec s.retry.caller s.turn.ahead s.pending
    refine .inr ⟨⟨s.retry.maxAttempts - s.turn.attempts, t.retry.cancelIn, s.retry.caller⟩, _, _,
      hsplit.symm, ?_, rfl, Nat.sub_le _ _, hahead⟩
    rw [ht, State.overtaken_pending, hpending]
    rfl

/-- A call that read a composite ends with one response, when its decoder has an outcome for every
word. -/
theorem endReading_eq_respond (r : Except Error (List Byte)) (s : State)
    {dec : List Byte → Host.Outcome (Except Error Rat) Fault Refusal}
    (hdec : ∀ raw, ∃ o, dec raw = .next o) (result : Rat → Result) :
    ∃ resp, endReading r s dec result = .next (s.respond resp) := by
  cases r with
  | error e => exact ⟨_, rfl⟩
  | ok raw =>
    obtain ⟨o, ho⟩ := hdec raw
    exact ⟨responseOf (o.map result), by simp only [endReading, ho, State.answer_eq]⟩

theorem CallOutcome.composite {s : State} {c : Call}
    (hadm : (Item.call s.retry c).admissible = decide (1 ≤ s.retry.maxAttempts))
    (hbus : comesToTheBus s.tables (.call s.retry c) ↔ (Item.call s.retry c).admissible = true)
    (as : List BusAddr) {dec : List Byte → Host.Outcome (Except Error Rat) Fault Refusal}
    (hdec : ∀ raw, ∃ o, dec raw = .next o) (result : Rat → Result) :
    CallOutcome s c (s.ifAttempts (s.unlessScope
      (endReading (readComposite as s).1 (readComposite as s).2 dec result))) := by
  obtain ⟨-, -, -, -, hpending, -⟩ := readComposite_spec as s
  obtain ⟨resp, h⟩ := endReading_eq_respond (readComposite as s).1 (readComposite as s).2 hdec result
  rw [h]
  exact .read hadm hbus (.inl hpending)

theorem runCall_outcome (c : Call) (s : State) : CallOutcome s c (runCall c s) := by
  cases c with
  | getPressure round =>
    exact .composite rfl Iff.rfl pressureRegs (decodePressure_of_pos (by decide) round) _
  | getTemperature round =>
    exact .composite rfl Iff.rfl temperatureRegs (decodeTemperature_of_pos (by decide) round) _
  | getAmbientLux | getWhiteCount | readWithRetry =>
    exact .read rfl Iff.rfl (.readInTurns s _ _ _ _)
  | readRegister a n =>
    exact .access _ rfl (.inl ((State.answer_pending _ _).trans (ReadsFrom.readRegister a n s).pending))
  | setConfig | setPowerSaveMode | setThresholdWindow => exact .encodeAndWrite Iff.rfl _
  | setMode | writeRegister => exact .access _ rfl (.inl (writeAnd_pending s _ _))

/-! ### What a held scope blocks -/

theorem exec_held {s : State} (hs : s.scope = true) {i : Instr} (hi : sourceOf i ≠ .requestPort) :
    exec i s = .fault .scopeHeld := by
  obtain ⟨t, ht, -⟩ := exec_busWord hi s
  rw [ht, unlessScope_held hs]

theorem runCall_held {s : State} (hs : s.scope = true) {c : Call}
    (hc : comesToTheBus s.tables (.call s.retry c)) : runCall c s = .fault .scopeHeld := by
  have h := runCall_outcome c s
  generalize runCall c s = o at h
  cases h with
  | refused _ _ hbus => exact absurd hc hbus
  | encodeError _ hbus => exact absurd hc hbus
  | access t _ _ => exact unlessScope_held hs _

theorem comesToTheBus_of_readsWithRetry {c : Call} {a : BusAddr} {n : Nat} (hc : readsWithRetry c a n)
    {args : RetryArgs} (hargs : 1 ≤ args.maxAttempts) (t : Tables) :
    comesToTheBus t (.call args c) := by
  obtain ⟨⟨r, rfl⟩, -, -⟩ | ⟨rfl, -, -⟩ | rfl := hc <;> exact decide_eq_true hargs

/-- Two bytes in range are encoded for either window (40_codec.md R100). -/
theorem comesToTheBus_setThresholdWindow (high : Bool) {m b : Int} (hm : 0 ≤ m) (hm' : m ≤ 255)
    (hb : 0 ≤ b) (hb' : b ≤ 255) (args : RetryArgs) (t : Tables) :
    comesToTheBus t (.call args (.setThresholdWindow high m b)) := by
  cases high with
  | true =>
    exact ⟨_, encodeOp_codesOf (lay := .alsWh) (c := windowCodes m b) rfl
      (windowCodes_fit (.inl rfl) hm hm' hb hb') t⟩
  | false =>
    exact ⟨_, encodeOp_codesOf (lay := .alsWl) (c := windowCodes m b) rfl
      (windowCodes_fit (.inr rfl) hm hm' hb hb') t⟩

/-- Settles O57: each of these words and calls comes to the bus, where the scope is looked at first. -/
theorem heldScopeBlocksEveryBusUser : Obligations.HeldScopeBlocksEveryBusUser := by
  intro s hs
  refine ⟨fun i hi => exec_held hs hi, fun i hi => goesOn_operation hi s, fun c a n hc hargs => ?_,
    fun round hargs => ⟨?_, ?_⟩, fun a n => ?_, fun a raw => ?_, fun b => ?_, fun vals raw h => ?_,
    fun vals raw h => ?_, fun high m b hm hm' hb hb' => ?_⟩
  · exact runCall_held hs (comesToTheBus_of_readsWithRetry hc hargs s.tables)
  · exact runCall_held hs (decide_eq_true hargs)
  · exact runCall_held hs (decide_eq_true hargs)
  · exact runCall_held hs rfl
  · exact runCall_held hs rfl
  · exact runCall_held hs rfl
  · exact runCall_held hs ⟨raw, h⟩
  · exact runCall_held hs ⟨raw, h⟩
  · exact runCall_held hs (comesToTheBus_setThresholdWindow high hm hm' hb hb' s.retry s.tables)

/-! ### Serving a call -/

/-- `s` with a call taken from the queue: the rest stays pending, the lines are idle and the call's retry
arguments hold. -/
def State.serving (s : State) (args : RetryArgs) (rest : List Item) : State :=
  { s with pending := rest, port := PortInputs.idle, retry := args }

@[simp] theorem State.serving_bus (s : State) (args : RetryArgs) (rest : List Item) :
    (s.serving args rest).bus = s.bus := rfl

@[simp] theorem State.serving_log (s : State) (args : RetryArgs) (rest : List Item) :
    (s.serving args rest).log = s.log := rfl

theorem step_call {s : State} {args : RetryArgs} {c : Call} {rest : List Item}
    (hp : s.pending = .call args c :: rest) : step s = runCall c (s.serving args rest) :=
  step_of_pending_cons hp

/-! ### What stops the machine, and what order a step keeps -/

/-- What a step that serves an item can do: it goes on, with the rest of the queue or with a call put back;
it refuses a call that is given no attempt; or it stops at a held scope, for an item that comes to the
bus. -/
inductive StepOutcome (s : State) (i : Item) (rest : List Item) :
    Host.Outcome State Fault Refusal → Prop where
  | next (t : State) (horder : t.pending = rest ∨ ∃ args c, i = .call args c ∧
      KeepsOrder (s.serving args rest) c t) : StepOutcome s i rest (.next t)
  | refused (args : RetryArgs) (c : Call) (hi : i = .call args c) (hattempts : args.maxAttempts = 0)
      (hadm : (Item.call args c).admissible = false) :
      StepOutcome s i rest (.refused .attemptsOutsideDomain)
  | fault (hs : s.scope = true) (hbus : comesToTheBus s.tables i) :
      StepOutcome s i rest (.fault .scopeHeld)

/-- An access to the bus, by the held or the released scope. -/
theorem StepOutcome.access {s u t : State} {i : Item} {rest : List Item} (hscope : u.scope = s.scope)
    (hbus : comesToTheBus s.tables i)
    (horder : t.pending = rest ∨ ∃ args c, i = .call args c ∧
      KeepsOrder (s.serving args rest) c t) :
    StepOutcome s i rest (u.unlessScope (.next t)) := by
  obtain ⟨-, h⟩ | ⟨hu, h⟩ := unlessScope_spec u (.next t) <;> rw [h]
  · exact .next t horder
  · exact .fault (hscope ▸ hu) hbus

theorem stepOutcome_word {s : State} {p : Nat} {w : RegWord} {raw : List Byte} {rest : List Item}
    (hp : s.pending = .word p w raw :: rest) :
    StepOutcome s (.word p w raw) rest (step s) := by
  rw [step_of_pending_cons hp, runItem]
  cases hd : decode (.register w) raw with
  | error e =>
    rw [runWord_of_decode_error hd]
    exact .next _ (.inl rfl)
  | ok i =>
    have hi : sourceOf i ≠ .requestPort := by
      rw [sourceOf_of_decode_register hd]
      exact Source.noConfusion
    obtain ⟨t, ht, hpending⟩ := exec_busWord hi (s.accept (.word p w raw) rest)
    rw [runWord_of_decode_ok hd, ht]
    exact .access rfl ⟨i, hd⟩ (.inl hpending)

theorem stepOutcome_call {s : State} {args : RetryArgs} {c : Call} {rest : List Item}
    (hp : s.pending = .call args c :: rest) : StepOutcome s (.call args c) rest (step s) := by
  have h := runCall_outcome c (s.serving args rest)
  rw [step_call hp]
  generalize runCall c (s.serving args rest) = o at h
  cases h with
  | refused hattempts hadm _ => exact .refused args c rfl hattempts hadm
  | encodeError e _ => exact .next _ (.inl rfl)
  | access t hbus horder => exact .access rfl hbus (.inr ⟨args, c, rfl, horder⟩)

theorem step_outcome {s : State} {i : Item} {rest : List Item} (hp : s.pending = i :: rest) :
    StepOutcome s i rest (step s) := by
  cases i with
  | request p r => exact stepRefinesTheBlockFunction s p r rest hp ▸ .next _ (.inl rfl)
  | reset p during => exact step_reset hp ▸ .next _ (.inl rfl)
  | word p w raw => exact stepOutcome_word hp
  | call args c => exact stepOutcome_call hp

/-- Settles O44: of what a step can do, only an access to the bus faults, and only a call without an attempt
is refused. -/
theorem stopsAreOnlyTheNamedOnes : Obligations.StopsAreOnlyTheNamedOnes := by
  intro s
  cases hp : s.pending with
  | nil =>
    rw [step_of_pending_nil hp]
    exact ⟨fun _ => nofun, fun _ => nofun⟩
  | cons i rest =>
    have h := step_outcome hp
    refine ⟨fun f hf => ?_, fun r hr => ?_⟩
    · rw [hf] at h
      obtain ⟨⟩ | ⟨⟩ | ⟨hs, hbus⟩ := h
      exact ⟨rfl, hs, i, rest, rfl, hbus⟩
    · rw [hr] at h
      obtain ⟨⟩ | ⟨args, c, rfl, hattempts, hadm⟩ | ⟨⟩ := h
      exact ⟨rfl, args, c, rest, rfl, hattempts, hadm⟩

/-- Settles O59: the item is gone, or it is a call that its read in turns has put back. -/
theorem programOrderOfEachCallerIsKept : Obligations.ProgramOrderOfEachCallerIsKept := by
  intro s t i rest hp hstep
  have h := step_outcome hp
  rw [hstep] at h
  cases h with
  | next _ horder =>
    obtain hpending | ⟨args, c, rfl, hpending | ⟨left, ahead, behind, hsplit, hqueue, hcaller, hmax,
      hahead⟩⟩ := horder
    · exact .inl hpending
    · exact .inl hpending
    · exact .inr ⟨args, left, c, ahead, behind, rfl, hsplit, hqueue, hcaller, hmax, hahead⟩

/-! ### Reads on a script -/

theorem ifAttempts_of_pos {s : State} (h : 1 ≤ s.retry.maxAttempts)
    (k : Host.Outcome State Fault Refusal) : s.ifAttempts k = k :=
  if_neg (Nat.ne_of_gt h)

/-- One read draws the script's next answer, which alone decides how it ends
(43_environment_ops.md R145). -/
theorem readRegister_of_script {a : BusAddr} {n : Nat} {s : State} {ans : Answer} {more : List Answer}
    (hlen : registerLength a = some n) (hscript : s.script = ans :: more) :
    readRegister a n s = ((readEnd n ans).1,
      { s with script := more, bus := s.bus ++ [.read a n (readEnd n ans).2] }) := by
  simp only [readRegister, hlen, if_true, nextAnswer, hscript, State.event]

/-- A malformed read draws no answer (20_memory.md R46). -/
theorem readRegister_of_length_ne {a : BusAddr} {n : Nat} (hlen : registerLength a ≠ some n)
    (s : State) :
    readRegister a n s = (.error .protocolError, s.event (.read a n .protocolError)) :=
  if_neg hlen

theorem writeAnd_of_length_ne {a : BusAddr} {raw : List Byte}
    (hlen : registerLength a ≠ some raw.length) (s : State) :
    s.writeAnd a raw = (s.event (.write a raw .protocolError)).raise .protocolError := by
  simp only [State.writeAnd, writeRegister, hlen, if_false]

theorem State.tick_of_no_signal {s : State} (h : s.retry.cancelIn = none) : s.tick = s := by
  obtain ⟨tables, pending, port, responses, bus, script, asked, scope, log, ⟨m, cancelIn, p⟩, turns⟩ := s
  cases h
  rfl

/-- A first attempt that does not end in a bus error is the whole read (43_environment_ops.md R147). -/
theorem readWithRetry_of_first {a : BusAddr} {n : Nat} {s : State} (hattempts : 1 ≤ s.retry.maxAttempts)
    (hcancel : s.retry.cancelIn = none) (hfirst : (readRegister a n s).1 ≠ .error .busError) :
    readWithRetry a n s = readRegister a n s := by
  obtain ⟨m, hm⟩ := Nat.exists_eq_add_of_le' hattempts
  rw [readWithRetry, hm, retryLoop_succ a n m s (by simp [hcancel]), State.tick_of_no_signal hcancel,
    if_neg hfirst]

/-! ### Transient failures -/

/-- The count down to a cancellation signal, over `j` attempts and then `k` more. -/
theorem countdown_add (signal : Option Nat) (j k : Nat) :
    (signal.map (fun m => m - j)).map (fun m => m - k) = signal.map (fun m => m - (j + k)) := by
  simp only [Option.map_map, Function.comp_def, Nat.sub_sub]

/-- A signal that stands after `j + k` attempts stands, after `j` of them, after `k` more. -/
theorem le_countdown {signal : Option Nat} {j k : Nat} (h : ∀ m, signal = some m → j + k ≤ m) :
    ∀ m, signal.map (fun m => m - j) = some m → k ≤ m := by
  rintro _ hm
  obtain ⟨m, hsignal, rfl⟩ := Option.map_eq_some_iff.mp hm
  exact Nat.le_sub_of_add_le' (h m hsignal)

theorem ne_zero_of_le {signal : Option Nat} {k : Nat} (hk : 1 ≤ k) (h : ∀ m, signal = some m → k ≤ m) :
    signal ≠ some 0 :=
  fun hzero => absurd (h 0 hzero) (by omega)

/-- `s` after `j` reads of `a` that have failed transiently, with the script `more` left. -/
def State.afterFailures (s : State) (a : BusAddr) (n j : Nat) (more : List Answer) : State :=
  { s with
    script := more
    bus := s.bus ++ List.replicate j (.read a n .busError)
    log := s.log ++ List.replicate j a
    retry := { s.retry with cancelIn := s.retry.cancelIn.map (fun k => k - j) } }

theorem State.afterFailures_zero {s : State} {more : List Answer} (h : s.script = more) (a : BusAddr)
    (n : Nat) : s.afterFailures a n 0 more = s := by
  subst h
  simp [State.afterFailures]

theorem State.afterFailures_succ (s : State) (a : BusAddr) (n j : Nat) (mid more : List Answer) :
    (s.afterFailures a n 1 mid).afterFailures a n j more = s.afterFailures a n (j + 1) more := by
  simp only [State.afterFailures, countdown_add, List.append_assoc, List.replicate_append_replicate,
    Nat.add_comm j 1]

/-- A failing attempt, with the signal still to come, is logged and leaves one attempt fewer. -/
theorem retryLoop_failure {a : BusAddr} {n : Nat} {s : State} {more : List Answer}
    (hlen : registerLength a = some n) (hcancel : ∀ m, s.retry.cancelIn = some m → 1 ≤ m)
    (hscript : s.script = .busError :: more) (k : Nat) :
    retryLoop a n (k + 1) s = retryLoop a n k (s.afterFailures a n 1 more) := by
  rw [retryLoop_succ a n k s (ne_zero_of_le le_rfl hcancel),
    readRegister_of_script (s := s.tick) hlen hscript]
  rfl

/-- `j` failing attempts, with the signal still to come, are made and logged, and the loop goes on from
there. -/
theorem retryLoop_failures {a : BusAddr} {n j : Nat} {s : State} {more : List Answer}
    (hlen : registerLength a = some n) (hcancel : ∀ m, s.retry.cancelIn = some m → j ≤ m)
    (hscript : s.script = List.replicate j .busError ++ more) (k : Nat) :
    retryLoop a n (j + k) s = retryLoop a n k (s.afterFailures a n j more) := by
  induction j generalizing s with
  | zero => rw [Nat.zero_add, State.afterFailures_zero (List.nil_append more ▸ hscript)]
  | succ j ih =>
    have hleft := le_countdown (j := 1) (fun m hm => Nat.add_comm 1 j ▸ hcancel m hm)
    have hfirst := retryLoop_failure hlen (fun m hm => (Nat.le_add_left 1 j).trans (hcancel m hm))
      hscript (j + k)
    rw [Nat.succ_add, hfirst, ih hleft rfl, State.afterFailures_succ]

/-- `s` after a read of `a` that fails transiently `k` times and then succeeds, with the script `more`
left. -/
def State.afterReading (s : State) (a : BusAddr) (n k : Nat) (more : List Answer) : State :=
  { s with
    script := more
    bus := s.bus ++ failThenTrace a n k
    log := s.log ++ List.replicate k a
    retry := { s.retry with cancelIn := s.retry.cancelIn.map (fun m => m - (k + 1)) } }

/-- `k` transient failures and then bytes, within the bound and before the signal
(43_environment_ops.md R147, R148). -/
theorem readWithRetry_failThen {a : BusAddr} {n k : Nat} {s : State} {raw : List Byte}
    {more : List Answer} (hlen : registerLength a = some n) (hraw : raw.length = n)
    (hattempts : k + 1 ≤ s.retry.maxAttempts)
    (hcancel : ∀ m, s.retry.cancelIn = some m → k + 1 ≤ m)
    (hscript : s.script = failThen k raw ++ more) :
    readWithRetry a n s = (.ok raw, s.afterReading a n k more) := by
  obtain ⟨d, hd⟩ := Nat.exists_eq_add_of_le hattempts
  have hsplit : s.script = List.replicate k .busError ++ .bytes raw :: more := by
    rw [hscript, failThen, List.append_assoc, List.singleton_append]
  have hfailures := retryLoop_failures hlen (fun m hm => (Nat.le_succ k).trans (hcancel m hm)) hsplit
    (d + 1)
  have hlast := readRegister_of_script
    (s := (s.afterFailures a n k (.bytes raw :: more)).tick) hlen rfl
  rw [show readEnd n (.bytes raw) = (.ok raw, .done) from if_pos hraw] at hlast
  rw [readWithRetry, hd, Nat.add_assoc, Nat.add_comm 1 d, hfailures,
    retryLoop_succ _ _ _ _ (ne_zero_of_le le_rfl (le_countdown hcancel)), hlast, if_neg (by simp)]
  simp only [State.afterFailures, State.afterReading, State.tick, failThenTrace, countdown_add,
    List.append_assoc]

/-! ### The reads of a composite -/

/-- `s` after some readings of one-byte registers, with the script `more` left. -/
def State.afterReadings (s : State) (rs : List Reading) (more : List Answer) : State :=
  { s with
    script := more
    bus := s.bus ++ rs.flatMap (fun r => failThenTrace r.reg 1 r.failures)
    log := s.log ++ rs.flatMap (fun r => List.replicate r.failures r.reg)
    retry := { s.retry with cancelIn := s.retry.cancelIn.map (fun m => m - attemptsOf rs) } }

theorem State.afterReadings_nil {s : State} {more : List Answer} (h : s.script = more) :
    s.afterReadings [] more = s := by
  subst h
  simp [State.afterReadings, attemptsOf]

theorem State.afterReadings_cons (s : State) (r : Reading) (rs : List Reading)
    (mid more : List Answer) :
    (s.afterReading r.reg 1 r.failures mid).afterReadings rs more = s.afterReadings (r :: rs) more := by
  simp only [State.afterReadings, State.afterReading, countdown_add, attemptsOf, List.map_cons,
    List.sum_cons, List.flatMap_cons, List.append_assoc]

/-- Readings that all come within the bound, and before the signal that one count down to it gives
(43_environment_ops.md R150; notes/assumptions/15.md). -/
theorem readEach_readings {rs : List Reading} {s : State} {more : List Answer}
    (hlen : ∀ r ∈ rs, registerLength r.reg = some 1)
    (hattempts : ∀ r ∈ rs, r.failures + 1 ≤ s.retry.maxAttempts)
    (hcancel : ∀ m, s.retry.cancelIn = some m → attemptsOf rs ≤ m)
    (hscript : s.script = rs.flatMap (fun r => failThen r.failures [r.byte]) ++ more) :
    readEach (rs.map (fun r => r.reg)) s = (.ok (rs.map (fun r => r.byte)), s.afterReadings rs more) := by
  induction rs generalizing s with
  | nil =>
    rw [List.map_nil, List.map_nil, readEach,
      State.afterReadings_nil (List.nil_append more ▸ hscript)]
  | cons r rs ih =>
    obtain ⟨hlen_r, hlen_rs⟩ := List.forall_mem_cons.mp hlen
    obtain ⟨hattempts_r, hattempts_rs⟩ := List.forall_mem_cons.mp hattempts
    rw [attemptsOf, List.map_cons, List.sum_cons] at hcancel
    rw [List.flatMap_cons, List.append_assoc] at hscript
    have hfirst := readWithRetry_failThen (raw := [r.byte]) hlen_r rfl hattempts_r
      (fun m hm => (Nat.le_add_right _ _).trans (hcancel m hm)) hscript
    rw [List.map_cons, readEach, hfirst]
    simp only [ih (s := s.afterReading r.reg 1 r.failures _) hlen_rs hattempts_rs
      (le_countdown hcancel) rfl]
    rw [State.afterReadings_cons]
    rfl

theorem readComposite_readings {rs : List Reading} {s : State} {more : List Answer}
    (hlen : ∀ r ∈ rs, registerLength r.reg = some 1)
    (hattempts : ∀ r ∈ rs, r.failures + 1 ≤ s.retry.maxAttempts)
    (hcancel : ∀ m, s.retry.cancelIn = some m → attemptsOf rs ≤ m)
    (hscript : s.script = rs.flatMap (fun r => failThen r.failures [r.byte]) ++ more) :
    readComposite (rs.map (fun r => r.reg)) s =
      (.ok (rs.map (fun r => r.byte)), (s.enterScope.afterReadings rs more).leaveScope) := by
  rw [readComposite, readEach_readings (s := s.enterScope) hlen hattempts hcancel hscript]

/-- `s` after a call that reads a composite: the readings `rs` stand in one scope on the trace, and `q` is
the answer. -/
def State.afterComposite (s : State) (args : RetryArgs) (rest : List Item) (rs : List Reading)
    (more : List Answer) (q : Result) : State :=
  (((s.serving args rest).enterScope.afterReadings rs more).leaveScope).respond (.ok q)

/-- A call that reads a composite, on readings that all come: the decoded value is the answer. -/
theorem step_readings {s : State} {args : RetryArgs} {c : Call} {rest : List Item} {rs : List Reading}
    {more : List Answer} {dec : List Byte → Host.Outcome (Except Error Rat) Fault Refusal}
    {result : Rat → Result} {q : Rat} (hp : s.pending = .call args c :: rest) (hs : s.scope = false)
    (hcall : ∀ u, runCall c u = u.ifAttempts (u.unlessScope (endReading
      (readComposite (rs.map (fun r => r.reg)) u).1 (readComposite (rs.map (fun r => r.reg)) u).2
      dec result)))
    (hlen : ∀ r ∈ rs, registerLength r.reg = some 1) (hpos : 1 ≤ args.maxAttempts)
    (hattempts : ∀ r ∈ rs, r.failures + 1 ≤ args.maxAttempts)
    (hcancel : ∀ m, args.cancelIn = some m → attemptsOf rs ≤ m)
    (hscript : s.script = rs.flatMap (fun r => failThen r.failures [r.byte]) ++ more)
    (hdec : dec (rs.map (fun r => r.byte)) = .next (.ok q)) :
    step s = .next (s.afterComposite args rest rs more (result q)) := by
  rw [step_call hp, hcall, ifAttempts_of_pos (s := s.serving args rest) hpos,
    unlessScope_released (s := s.serving args rest) hs,
    readComposite_readings (s := s.serving args rest) hlen hattempts hcancel hscript, endReading, hdec]
  rfl

/-! ### The values of the readings -/

/-- `sext` of the unsigned value of a word is its two's-complement integer
(42_measurement_decoder.md R129). -/
theorem sext_toNat {w : Nat} (v : BitVec (w + 1)) : sext (w + 1) v.toNat = v.toInt := by
  have hpow : 2 ^ (w + 1) = 2 * 2 ^ w := by rw [pow_succ, Nat.mul_comm]
  have hcast : ((2 : Int) ^ (w + 1)) = ((2 ^ (w + 1) : Nat) : Int) := by push_cast; rfl
  rw [sext, BitVec.toInt_eq_toNat_cond, Nat.add_sub_cancel, hcast]
  split_ifs <;> omega

theorem toNat_append_byte {w : Nat} (v : BitVec w) (b : Byte) :
    (v ++ b).toNat = v.toNat * 2 ^ 8 + b.toNat := by
  rw [BitVec.toNat_append, ← Nat.shiftLeft_add_eq_or_of_lt b.isLt, Nat.shiftLeft_eq]

theorem decp24Op_bytes (b0 b1 b2 : Byte) : decp24Op [b0, b1, b2] = .ok (b0 ++ b1 ++ b2).toInt := by
  have hbe : b0.toNat * 2 ^ 16 + b1.toNat * 2 ^ 8 + b2.toNat = (b0 ++ b1 ++ b2).toNat := by
    rw [toNat_append_byte, toNat_append_byte]
    omega
  rw [decp24Op, hbe]
  exact congrArg Except.ok (sext_toNat (w := 23) _)

theorem dect16Op_bytes (b0 b1 : Byte) : dect16Op [b0, b1] = .ok (b0 ++ b1).toInt := by
  have hbe : b0.toNat * 2 ^ 8 + b1.toNat = (b0 ++ b1).toNat := (toNat_append_byte b0 b1).symm
  rw [dect16Op, hbe]
  exact congrArg Except.ok (sext_toNat (w := 15) _)

theorem decodePressure_bytes (b0 b1 b2 : Byte) (round : Option Int) :
    decodePressure [b0, b1, b2] 4096 round =
      .next (.ok (rounded round (((b0 ++ b1 ++ b2).toInt : Rat) / 4096))) := by
  rw [decodePressure, if_neg (by decide), decp24Op_bytes]
  rfl

theorem decodeTemperature_bytes (b0 b1 : Byte) (round : Option Int) :
    decodeTemperature [b0, b1] 256 round =
      .next (.ok (rounded round (((b0 ++ b1).toInt : Rat) / 256))) := by
  rw [decodeTemperature, if_neg (by decide), dect16Op_bytes]
  rfl

/-- A reading at the default scale: the exact value, which is its float, or ROUND_FN of it
(42_measurement_decoder.md R130, R131). -/
theorem reading_default (scale : Int) (round : Option Int) (q : Rat) :
    reading scale scale round (rounded round q) =
      match round with
      | none => .value q q
      | some places => .value (Config.roundFn q places) (Config.floatFmt (Config.roundFn q places)) := by
  cases round with
  | none => rw [reading, readingFloat, if_pos ⟨rfl, rfl⟩, rounded]
  | some places => rw [reading, readingFloat, if_neg (by simp), rounded]

/-- The readings of the three pressure registers. -/
def pressureReadings (k0 k1 k2 : Nat) (b0 b1 b2 : Byte) : List Reading :=
  [⟨ptReg 0x06#8, k0, b0⟩, ⟨ptReg 0x07#8, k1, b1⟩, ⟨ptReg 0x08#8, k2, b2⟩]

/-- The readings of the two temperature registers. -/
def temperatureReadings (k0 k1 : Nat) (b0 b1 : Byte) : List Reading :=
  [⟨ptReg 0x09#8, k0, b0⟩, ⟨ptReg 0x0A#8, k1, b1⟩]

theorem forall_pressureReadings {P : Reading → Prop} {k0 k1 k2 : Nat} {b0 b1 b2 : Byte} :
    (∀ r ∈ pressureReadings k0 k1 k2 b0 b1 b2, P r) ↔
      P ⟨ptReg 0x06#8, k0, b0⟩ ∧ P ⟨ptReg 0x07#8, k1, b1⟩ ∧ P ⟨ptReg 0x08#8, k2, b2⟩ := by
  simp [pressureReadings]

theorem forall_temperatureReadings {P : Reading → Prop} {k0 k1 : Nat} {b0 b1 : Byte} :
    (∀ r ∈ temperatureReadings k0 k1 b0 b1, P r) ↔
      P ⟨ptReg 0x09#8, k0, b0⟩ ∧ P ⟨ptReg 0x0A#8, k1, b1⟩ := by
  simp [temperatureReadings]

theorem attemptsOf_pressureReadings (k0 k1 k2 : Nat) (b0 b1 b2 : Byte) :
    attemptsOf (pressureReadings k0 k1 k2 b0 b1 b2) = k0 + k1 + k2 + 3 := by
  simp only [attemptsOf, pressureReadings, List.map_cons, List.map_nil, List.sum_cons, List.sum_nil]
  omega

theorem attemptsOf_temperatureReadings (k0 k1 : Nat) (b0 b1 : Byte) :
    attemptsOf (temperatureReadings k0 k1 b0 b1) = k0 + k1 + 2 := by
  simp only [attemptsOf, temperatureReadings, List.map_cons, List.map_nil, List.sum_cons, List.sum_nil]
  omega

/-- Settles O49: three readings in one scope, and the decoder's value of their bytes. -/
theorem getPressureReadsAndDecodes : Obligations.GetPressureReadsAndDecodes := by
  intro s args rest b0 b1 b2 k0 k1 k2 more round hp hs hcancel h0 h1 h2 hscript
  have hreadings : s.script =
      (pressureReadings k0 k1 k2 b0 b1 b2).flatMap (fun r => failThen r.failures [r.byte]) ++ more := by
    simpa [pressureReadings] using hscript
  refine ⟨_, step_readings hp hs (fun _ => rfl) (forall_pressureReadings.mpr ⟨rfl, rfl, rfl⟩) (by omega)
    (forall_pressureReadings.mpr ⟨h0, h1, h2⟩) (by rwa [attemptsOf_pressureReadings]) hreadings
    (decodePressure_bytes b0 b1 b2 round), rfl, rfl, rfl, ?_, ?_, ?_⟩
  · rw [reading_default]
    rfl
  · simp [State.afterComposite, State.afterReadings, pressureReadings, ptReg]
  · simp [State.afterComposite, State.afterReadings, pressureReadings, ptReg]

/-- Settles O50: two readings in one scope, and the decoder's value of their bytes. -/
theorem getTemperatureReadsAndDecodes : Obligations.GetTemperatureReadsAndDecodes := by
  intro s args rest b0 b1 k0 k1 more round hp hs hcancel h0 h1 hscript
  have hreadings : s.script =
      (temperatureReadings k0 k1 b0 b1).flatMap (fun r => failThen r.failures [r.byte]) ++ more := by
    simpa [temperatureReadings] using hscript
  refine ⟨_, step_readings hp hs (fun _ => rfl) (forall_temperatureReadings.mpr ⟨rfl, rfl⟩) (by omega)
    (forall_temperatureReadings.mpr ⟨h0, h1⟩) (by rwa [attemptsOf_temperatureReadings]) hreadings
    (decodeTemperature_bytes b0 b1 round), rfl, rfl, rfl, ?_, ?_, ?_⟩
  · rw [reading_default]
    rfl
  · simp [State.afterComposite, State.afterReadings, temperatureReadings, ptReg]
  · simp [State.afterComposite, State.afterReadings, temperatureReadings, ptReg]

/-! ### The register map -/

/-- The thirteen registers and their lengths (20_memory.md R41, R42). -/
def registerMap : List (BusAddr × Nat) :=
  [(alsReg 0x00#8, 2), (alsReg 0x01#8, 2), (alsReg 0x02#8, 2), (alsReg 0x03#8, 1), (alsReg 0x04#8, 2),
   (alsReg 0x05#8, 2), (alsReg 0x06#8, 2), (ptReg 0x06#8, 1), (ptReg 0x07#8, 1), (ptReg 0x08#8, 1),
   (ptReg 0x09#8, 1), (ptReg 0x0A#8, 1), (ptReg 0x30#8, 1)]

theorem mem_registerMap_of_length {a : BusAddr} {n : Nat} (h : registerLength a = some n) :
    (a, n) ∈ registerMap := by
  obtain ⟨device, reg⟩ := a
  have hreg : reg = BitVec.ofNat 8 reg.toNat := by simp
  simp only [registerLength] at h
  split_ifs at h with hals hpt
  · subst hals
    split at h
    case h_8 => cases h
    all_goals
      next hn =>
        rw [hn] at hreg
        subst hreg
        cases h
        decide
  · subst hpt
    split at h
    case h_7 => cases h
    all_goals
      next hn =>
        rw [hn] at hreg
        subst hreg
        cases h
        decide

theorem registerLength_of_mem : ∀ e ∈ registerMap, registerLength e.1 = some e.2 := by decide

theorem registerLength_eq_some (a : BusAddr) (n : Nat) :
    registerLength a = some n ↔ (a, n) ∈ registerMap :=
  ⟨mem_registerMap_of_length, registerLength_of_mem (a, n)⟩

/-! ### A driver's register calls -/

theorem bind_bytes_eq_map (r : Except Error (List Byte)) :
    r.bind (fun raw => .ok (.bytes raw)) = r.map Result.bytes := by
  cases r <;> rfl

/-- A driver's read of a register whose first attempt is its last: with the retry policy or without it, it
is that one call. -/
theorem step_registerRead {s : State} {args : RetryArgs} {rest : List Item} {a : BusAddr} {n : Nat}
    {c : Call} {r : Except Error (List Byte)} {t : State} (hp : s.pending = .call args c :: rest)
    (hs : s.scope = false) (hread : readRegister a n (s.serving args rest) = (r, t))
    (hc : c = .readRegister a n ∨ c = .readWithRetry a n ∧ s.turns = [] ∧ 1 ≤ args.maxAttempts ∧
      args.cancelIn = none ∧ r ≠ .error .busError) :
    step s = .next (t.answer (r.map .bytes)) := by
  rw [step_call hp]
  obtain rfl | ⟨rfl, hturns, hattempts, hcancel, hr⟩ := hc
  · rw [runCall, callReadRegister, unlessScope_released (s := s.serving args rest) hs, hread]
  · rw [runCall, callReadWithRetry, ifAttempts_of_pos (s := s.serving args rest) hattempts,
      unlessScope_released (s := s.serving args rest) hs,
      readInTurns_alone (s := s.serving args rest) hturns,
      readWithRetry_of_first (s := s.serving args rest) hattempts hcancel (by rwa [hread]), hread,
      bind_bytes_eq_map]

/-- Settles O53: the map is read off `registerLength`, and each call is one `readRegister` or
`writeRegister`, which Transport's next answer ends where the length is the register's. -/
theorem registerCallsKeepToTheMap : Obligations.RegisterCallsKeepToTheMap := by
  refine ⟨registerLength_eq_some, fun s args rest a n raw hattempts hcancel hs hturns => ⟨?_, ?_, ?_⟩⟩
  · intro c hc hp
    have hcall : ∀ {r : Except Error (List Byte)}, r ≠ .error .busError → c = .readRegister a n ∨
        c = .readWithRetry a n ∧ s.turns = [] ∧ 1 ≤ args.maxAttempts ∧ args.cancelIn = none ∧
          r ≠ .error .busError :=
      fun hr => hc.symm.imp_right fun h => ⟨h, hturns, hattempts, hcancel, hr⟩
    refine ⟨fun more hlen hraw hscript => ?_, fun ans more hlen hans hscript => ?_, fun hlen => ?_⟩
    · have hend : readEnd n (.bytes raw) = (.ok raw, .done) := if_pos hraw
      have hread := readRegister_of_script (s := s.serving args rest) hlen hscript
      rw [hend] at hread
      exact step_registerRead hp hs hread (hcall (by simp))
    · have hend : readEnd n ans = (.error .protocolError, .protocolError) := by
        obtain rfl | ⟨rfl, hraw⟩ := hans
        · rfl
        · exact if_neg hraw
      have hread := readRegister_of_script (s := s.serving args rest) hlen hscript
      rw [hend] at hread
      exact step_registerRead hp hs hread (hcall (by simp))
    · exact step_registerRead hp hs (readRegister_of_length_ne hlen _) (hcall (by simp))
  · intro more hp hlen hscript
    exact step_registerRead hp hs (readRegister_of_script (s := s.serving args rest) hlen hscript)
      (.inl rfl)
  · intro hp
    have hwrite : step s = .next ((s.serving args rest).writeAnd a raw) :=
      (step_call hp).trans (busWrite_released (s := s.serving args rest) hs a raw)
    refine ⟨fun hlen => ?_, fun hlen => ?_⟩
    · rw [hwrite, writeAnd_eq_afterWrite hlen]
      rfl
    · rw [hwrite, writeAnd_of_length_ne hlen]
      rfl

/-! ### Reads in turns -/

/-- The calls that read one register with the retry policy are reads in turns. -/
theorem runCall_readInTurns {c : Call} {a : BusAddr} {n : Nat} (hc : readsWithRetry c a n) :
    ∃ finish, ∀ s, runCall c s =
      s.ifAttempts (s.unlessScope (.next (s.readInTurns a n c finish))) := by
  obtain ⟨⟨r, rfl⟩, rfl, rfl⟩ | ⟨rfl, rfl, rfl⟩ | rfl := hc <;> exact ⟨_, fun _ => rfl⟩

/-- One step of such a call, where the scope is released. -/
theorem step_readInTurns {c : Call} {a : BusAddr} {n : Nat} (hc : readsWithRetry c a n) :
    ∃ finish, ∀ (s : State) (args : RetryArgs) (rest : List Item), s.pending = .call args c :: rest →
      s.scope = false → 1 ≤ args.maxAttempts →
      step s = .next ((s.serving args rest).readInTurns a n c finish) := by
  obtain ⟨finish, hrun⟩ := runCall_readInTurns hc
  refine ⟨finish, fun s args rest hp hs hattempts => ?_⟩
  rw [step_call hp, hrun, ifAttempts_of_pos (s := s.serving args rest) hattempts,
    unlessScope_released (s := s.serving args rest) hs]

/-- A turn that uses up its attempts with some left: the call waits for its next turn. -/
theorem readInTurns_cut {s t : State} {j k : Nat} {ts : List Turn} {a : BusAddr} {n : Nat}
    (hturns : s.turns = ⟨j, k⟩ :: ts) (hj : j < s.retry.maxAttempts)
    (hloop : retryLoop a n j s.takeTurn = (.error .retryExhausted, t)) (c : Call)
    (finish : List Byte → Except Error Result) :
    s.readInTurns a n c finish = t.overtaken k
      (.call ⟨s.retry.maxAttempts - j, t.retry.cancelIn, t.retry.caller⟩ c) := by
  have hturn : s.turn = ⟨j, k⟩ := by rw [State.turn, hturns]
  simp only [State.readInTurns, hturn, Nat.min_eq_left hj.le, hloop, hj, decide_true]

/-- A read that ends within its turn. -/
theorem readInTurns_ends {s t : State} {j k : Nat} {ts : List Turn} {a : BusAddr} {n : Nat}
    {r : Except Error (List Byte)} (hturns : s.turns = ⟨j, k⟩ :: ts) (hj : j ≤ s.retry.maxAttempts)
    (hloop : retryLoop a n j s.takeTurn = (r, t)) (hr : r ≠ .error .retryExhausted) (c : Call)
    (finish : List Byte → Except Error Result) :
    s.readInTurns a n c finish = t.answer (r.bind finish) := by
  have hturn : s.turn = ⟨j, k⟩ := by rw [State.turn, hturns]
  simp only [State.readInTurns, hturn, Nat.min_eq_left hj, hloop]
  split
  · exact absurd rfl hr
  · rfl

/-- `s` after a turn of `j` failing attempts of the call `c`, which then waits behind at most `k` items of
other callers. -/
def State.afterTurn (s : State) (args : RetryArgs) (rest : List Item) (c : Call) (a : BusAddr)
    (n j k : Nat) (ts : List Turn) (more : List Answer) : State :=
  { s with
    port := PortInputs.idle
    pending := itemsAhead args.caller k rest ++
      .call ⟨args.maxAttempts - j, none, args.caller⟩ c ::
        rest.drop (itemsAhead args.caller k rest).length
    script := more
    bus := s.bus ++ List.replicate j (.read a n .busError)
    log := s.log ++ List.replicate j a
    retry := args
    turns := ts }

theorem step_failing_turn {s : State} {args : RetryArgs} {rest : List Item} {c : Call} {a : BusAddr}
    {n j k : Nat} {ts : List Turn} {more : List Answer} (hc : readsWithRetry c a n)
    (hlen : registerLength a = some n) (hp : s.pending = .call args c :: rest) (hs : s.scope = false)
    (hcancel : args.cancelIn = none) (hturns : s.turns = ⟨j, k⟩ :: ts) (hj : j < args.maxAttempts)
    (hscript : s.script = List.replicate j .busError ++ more) :
    step s = .next (s.afterTurn args rest c a n j k ts more) := by
  obtain ⟨finish, hstep⟩ := step_readInTurns hc
  have hloop := retryLoop_failures (s := (s.serving args rest).takeTurn) hlen
    (fun m hm => absurd (hcancel.symm.trans hm) nofun) hscript 0
  rw [hstep s args rest hp hs (Nat.one_le_of_lt hj),
    readInTurns_cut (s := s.serving args rest) hturns hj hloop]
  obtain ⟨m, signal, p⟩ := args
  cases hcancel
  simp only [State.afterTurn, State.serving, State.overtaken, State.afterFailures, State.takeTurn,
    Item.caller, hturns, List.tail_cons, Option.map_none]

/-! ### A loop does not look at the bound that it was started with -/

/-- `s` with another bound on attempts. -/
def State.withAttempts (s : State) (m : Nat) : State :=
  { s with retry := { s.retry with maxAttempts := m } }

theorem readRegister_withAttempts (a : BusAddr) (n m : Nat) (s : State) :
    readRegister a n (s.withAttempts m) =
      ((readRegister a n s).1, (readRegister a n s).2.withAttempts m) := by
  by_cases hlen : registerLength a = some n
  · cases hscript : s.script with
    | nil => simp [readRegister, hlen, nextAnswer, hscript, State.withAttempts, State.event]
    | cons ans more => simp [readRegister, hlen, nextAnswer, hscript, State.withAttempts, State.event]
  · rw [readRegister_of_length_ne hlen, readRegister_of_length_ne hlen]
    rfl

theorem retryLoop_withAttempts (a : BusAddr) (n m k : Nat) (s : State) :
    retryLoop a n k (s.withAttempts m) =
      ((retryLoop a n k s).1, (retryLoop a n k s).2.withAttempts m) := by
  induction k generalizing s with
  | zero => rfl
  | succ k ih =>
    by_cases hc : s.retry.cancelIn = some 0
    · rw [retryLoop_cancelled a n k s hc, retryLoop_cancelled a n k (s.withAttempts m) hc]
    · have hread := readRegister_withAttempts a n m s.tick
      rw [retryLoop_succ a n k s hc, retryLoop_succ a n k (s.withAttempts m) hc,
        show (s.withAttempts m).tick = s.tick.withAttempts m from rfl, hread]
      split
      · exact ih ((readRegister a n s.tick).2.logFailure a)
      · rfl

theorem State.answer_withAttempts (s : State) (m : Nat) (o : Except Error Result) :
    (s.withAttempts m).answer o = (s.answer o).withAttempts m := by
  rw [State.answer_eq, State.answer_eq]
  rfl

/-- With no turn left, a read with another bound makes the attempts that the bound allows. -/
theorem readInTurns_withAttempts {t : State} (hturns : t.turns = []) (a : BusAddr) (n m : Nat) (c : Call)
    (finish : List Byte → Except Error Result) :
    (t.withAttempts m).readInTurns a n c finish =
      ((retryLoop a n m t).2.answer ((retryLoop a n m t).1.bind finish)).withAttempts m := by
  have hread : readWithRetry a n (t.withAttempts m) =
      ((retryLoop a n m t).1, (retryLoop a n m t).2.withAttempts m) :=
    retryLoop_withAttempts a n m m t
  rw [readInTurns_alone (s := t.withAttempts m) hturns, hread, State.answer_withAttempts]

/-- A call that is put back with nothing ahead of it is served next, with the attempts that are left. -/
theorem State.overtaken_serving {t : State} (hport : t.port = PortInputs.idle) (m : Nat) (i : Item) :
    (t.overtaken 0 i).serving ⟨m, t.retry.cancelIn, t.retry.caller⟩ t.pending = t.withAttempts m := by
  obtain ⟨tables, pending, port, responses, bus, script, asked, scope, log, retry, turns⟩ := t
  cases hport
  rfl

theorem State.overtaken_zero_pending (t : State) (i : Item) :
    (t.overtaken 0 i).pending = i :: t.pending := rfl

/-- A read cut after `j` attempts is the same read: it ends within them, or it goes on at once with the
attempts that are left. -/
theorem step_cut_read {s u : State} {args : RetryArgs} {rest : List Item} {c : Call} {a : BusAddr}
    {n j : Nat} (hc : readsWithRetry c a n) (hp : s.pending = .call args c :: rest)
    (hs : s.scope = false) (hturns : s.turns = [⟨j, 0⟩]) (hj : j < args.maxAttempts)
    (huncut : step { s with turns := [] } = .next u) :
    step s = .next u ∨ ∃ t, step s = .next t ∧ t.responses = s.responses ∧
      step t = .next (u.withAttempts (args.maxAttempts - j)) := by
  obtain ⟨finish, hstep⟩ := step_readInTurns hc
  have hpos : 1 ≤ args.maxAttempts := Nat.one_le_of_lt hj
  have htake : (s.serving args rest).takeTurn = { s with turns := [] }.serving args rest := by
    simp only [State.takeTurn, State.serving, hturns, List.tail_cons]
  obtain ⟨hreads, -⟩ := retryLoop_spec a n j (s.serving args rest).takeTurn
  rcases hcut : retryLoop a n j (s.serving args rest).takeTurn with ⟨r, t⟩
  rw [hcut] at hreads
  have hall : readWithRetry a n (s.serving args rest).takeTurn =
      if r = .error .retryExhausted then retryLoop a n (args.maxAttempts - j) t else (r, t) := by
    have hadd := retryLoop_add a n j (args.maxAttempts - j) (s.serving args rest).takeTurn
    rwa [hcut, Nat.add_sub_cancel' hj.le] at hadd
  rw [hstep { s with turns := [] } args rest hp hs hpos, readInTurns_alone rfl, ← htake, hall] at huncut
  rw [hstep s args rest hp hs hpos]
  by_cases hr : r = .error .retryExhausted
  · subst hr
    rw [if_pos rfl] at huncut
    cases huncut
    have hturns_t : t.turns = [] := hreads.turns.trans (congrArg List.tail hturns)
    refine .inr ⟨t.overtaken 0 (.call ⟨args.maxAttempts - j, t.retry.cancelIn, t.retry.caller⟩ c),
      congrArg _ (readInTurns_cut (s := s.serving args rest) hturns hj hcut c finish),
      hreads.responses, ?_⟩
    rw [hstep _ ⟨args.maxAttempts - j, _, _⟩ t.pending (State.overtaken_zero_pending t _)
      (hreads.scope.trans hs) (Nat.sub_pos_of_lt hj), State.overtaken_serving hreads.port,
      readInTurns_withAttempts hturns_t]
  · rw [if_neg hr] at huncut
    cases huncut
    exact .inl (congrArg _ (readInTurns_ends (s := s.serving args rest) hturns hj.le hcut hr c finish))

/-- Settles O58: a turn of failing attempts, and a read that goes on at once after one. -/
theorem overtakenReadsAreTheSameRead : Obligations.OvertakenReadsAreTheSameRead := by
  refine ⟨fun s args rest c a n j k ts more hc hlen hp hs hcancel hturns hj hscript =>
    ⟨_, step_failing_turn hc hlen hp hs hcancel hturns hj hscript, rfl, rfl, rfl, rfl, rfl, rfl⟩,
    fun s u args rest c a n j hc hp hs hturns hj huncut => ?_⟩
  obtain h | ⟨t, ht, hresponses, hv⟩ := step_cut_read hc hp hs hturns hj huncut
  · exact .inl h
  · exact .inr ⟨t, _, ht, hresponses, hv, rfl, rfl⟩

/-! ### Interleavings of two callers -/

/-- The call by which the caller `p` of two reads its register, with at most `max p` attempts. -/
def readItem (who : Bool → Nat) (reg : Bool → BusAddr) (len max : Bool → Nat) (p : Bool) : Item :=
  .call ⟨max p, none, who p⟩ (.readWithRetry (reg p) (len p))

section TwoCallers
variable {who : Bool → Nat} {reg : Bool → BusAddr} {len : Bool → Nat}

/-- The bounds after an attempt of the caller `p`. -/
def spend (max : Bool → Nat) (p : Bool) : Bool → Nat :=
  Function.update max p (max p - 1)

/-- The bounds suffice for what is left of the order. -/
theorem count_lt_spend {max : Bool → Nat} {p : Bool} {order : List Bool}
    (h : ∀ q, (p :: order).count q < max q) (q : Bool) : order.count q < spend max p q := by
  have hq := h q
  by_cases hqp : q = p
  · subst hqp
    rw [List.count_cons_self] at hq
    rw [spend, Function.update_self]
    omega
  · rw [List.count_cons_of_ne (Ne.symm hqp)] at hq
    rwa [spend, Function.update_of_ne hqp]

theorem one_lt_of_count {max : Bool → Nat} {p : Bool} {order : List Bool}
    (h : ∀ q, (p :: order).count q < max q) : 1 < max p := by
  have hp := h p
  rw [List.count_cons_self] at hp
  omega

theorem readItem_spend_self (max : Bool → Nat) (p : Bool) :
    readItem who reg len (spend max p) p =
      .call ⟨max p - 1, none, who p⟩ (.readWithRetry (reg p) (len p)) := by
  rw [readItem, spend, Function.update_self]

theorem readItem_spend_not (max : Bool → Nat) (p : Bool) :
    readItem who reg len (spend max p) (!p) = readItem who reg len max (!p) := by
  rw [readItem, readItem, spend, Function.update_of_ne (Bool.not_ne_self p)]

theorem itemsAhead_one_of_ne {p : Nat} {i : Item} (h : i.caller ≠ p) (rest : List Item) :
    itemsAhead p 1 (i :: rest) = [i] := by
  simp [itemsAhead, h]

theorem itemsAhead_zero (p : Nat) (waiting : List Item) : itemsAhead p 0 waiting = [] := rfl

/-- A failing attempt of the caller `p`, after which the caller `next` has its turn. -/
def afterAttempt (s : State) (who : Bool → Nat) (reg : Bool → BusAddr) (len max : Bool → Nat)
    (p next : Bool) (rest : List Item) (ts : List Turn) (more : List Answer) : State :=
  s.afterTurn ⟨max p, none, who p⟩ (readItem who reg len max (!p) :: rest)
    (.readWithRetry (reg p) (len p)) (reg p) (len p) 1 (if next = p then 0 else 1) ts more

/-- The queue is again the two reads, that of `next` first, and `p` has one attempt fewer. -/
theorem afterAttempt_pending (hwho : who true ≠ who false) (s : State) (max : Bool → Nat)
    (p next : Bool) (rest : List Item) (ts : List Turn) (more : List Answer) :
    (afterAttempt s who reg len max p next rest ts more).pending =
      readItem who reg len (spend max p) next :: readItem who reg len (spend max p) (!next) :: rest := by
  by_cases hnext : next = p
  · subst hnext
    simp only [afterAttempt, State.afterTurn, if_true, itemsAhead_zero, readItem_spend_self,
      readItem_spend_not, List.nil_append, List.length_nil, List.drop_zero]
  · obtain rfl : next = !p := Bool.eq_not_of_ne hnext
    have hcaller : (readItem who reg len max (!p)).caller ≠ who p := by
      cases p with
      | true => exact hwho.symm
      | false => exact hwho
    simp only [afterAttempt, State.afterTurn, if_neg hnext, itemsAhead_one_of_ne hcaller,
      readItem_spend_self, readItem_spend_not, Bool.not_not, List.singleton_append, List.length_singleton,
      List.drop_succ_cons, List.drop_zero]

theorem step_attempt {s : State} {max : Bool → Nat} {p : Bool} {rest : List Item} {more : List Answer}
    (hlen : ∀ q, registerLength (reg q) = some (len q)) (hs : s.scope = false) (hmax : 1 < max p)
    (hscript : s.script = .busError :: more)
    (hp : s.pending = readItem who reg len max p :: readItem who reg len max (!p) :: rest)
    (next : Bool) (ts : List Turn) :
    step { s with turns := ⟨1, if next = p then 0 else 1⟩ :: ts } =
      .next (afterAttempt s who reg len max p next rest ts more) :=
  step_failing_turn (s := { s with turns := ⟨1, if next = p then 0 else 1⟩ :: ts }) (.inr (.inr rfl))
    (hlen p) hp hs rfl rfl hmax hscript

/-- Turns of one attempt each, after which the other caller's read goes ahead where it is next, give any
order. -/
theorem run_interleaving (hwho : who true ≠ who false)
    (hlen : ∀ q, registerLength (reg q) = some (len q)) {s : State} {max : Bool → Nat} {first : Bool}
    {order : List Bool} {rest : List Item} {more : List Answer} (hs : s.scope = false)
    (hmax : ∀ q, (first :: order).count q < max q)
    (hscript : s.script = List.replicate (order.length + 1) .busError ++ more)
    (hp : s.pending = readItem who reg len max first :: readItem who reg len max (!first) :: rest) :
    ∃ ts t, run (order.length + 1) { s with turns := ts } = .next t ∧
      t.bus = s.bus ++ (first :: order).map (fun p => .read (reg p) (len p) .busError) ∧
      t.log = s.log ++ (first :: order).map reg ∧ t.responses = s.responses ∧ t.script = more := by
  induction order generalizing s max first with
  | nil =>
    have hstep := step_attempt hlen hs (one_lt_of_count hmax) hscript hp first []
    exact ⟨_, _, run_succ_of_step hstep 0, rfl, rfl, rfl, rfl⟩
  | cons next order ih =>
    obtain ⟨ts, t, hrun, hbus, hlog, hresponses, hmore⟩ :=
      ih (s := afterAttempt s who reg len max first next rest [] _) hs (count_lt_spend hmax) rfl
        (afterAttempt_pending hwho s max first next rest [] _)
    have hstep := step_attempt hlen hs (one_lt_of_count hmax) hscript hp next ts
    exact ⟨_, t, (run_succ_of_step hstep _).trans hrun, hbus.trans (List.append_cons _ _ _).symm,
      hlog.trans (List.append_cons _ _ _).symm, hresponses, hmore⟩

end TwoCallers

/-- Settles O60: the two reads stand in the queue as `readItem`s. -/
theorem everyInterleavingIsAdmitted : Obligations.EveryInterleavingIsAdmitted :=
  fun _ _ _ _ _ _ _ _ _ hwho hlen hs hmax hscript hp =>
    run_interleaving hwho hlen hs hmax hscript hp

end Sys2Proof.Machine

/-! The statements of 30_encoding.md: that decoding undoes encoding, the register formulas of ENCODE and
UNPACK, filler bits, and the words of the formats on the bus. -/

namespace Sys2Proof.Machine

/-! ### Concatenated bits -/

theorem toNat_append_bits {m n : Nat} (x : BitVec m) (y : BitVec n) :
    (x ++ y).toNat = x.toNat * 2 ^ n + y.toNat := by
  rw [BitVec.toNat_append, ← Nat.shiftLeft_add_eq_or_of_lt y.isLt, Nat.shiftLeft_eq]

theorem extractLsb'_eq_of_toNat {m n k : Nat} {v : BitVec m} {x : BitVec n}
    (h : v.toNat / 2 ^ k % 2 ^ n = x.toNat) : v.extractLsb' k n = x := by
  apply BitVec.eq_of_toNat_eq
  rw [BitVec.extractLsb'_toNat, Nat.shiftRight_eq_div_pow, h]

/-! ### The register words -/

/-- `---gg-iiiipp--es` with zero filler bits (30_encoding.md R61, R73). -/
def alsConfWord (gain : BitVec 2) (it : BitVec 4) (pers : BitVec 2) (intEn sd : BitVec 1) :
    BitVec 16 :=
  0#3 ++ gain ++ 0#1 ++ it ++ pers ++ 0#2 ++ intEn ++ sd

/-- `-----mme` with zero filler bits (30_encoding.md R64, R73). -/
def psmWord (mode : BitVec 2) (en : BitVec 1) : BitVec 8 := 0#5 ++ mode ++ en

/-- `lh--------------` with zero filler bits (30_encoding.md R65, R73). -/
def alsIntWord (low high : BitVec 1) : BitVec 16 := low ++ high ++ 0#14

section Words
variable (gain : BitVec 2) (it : BitVec 4) (pers mode : BitVec 2) (intEn sd en low high : BitVec 1)

theorem toNat_alsConfWord : (alsConfWord gain it pers intEn sd).toNat =
    gain.toNat * 2 ^ 11 + it.toNat * 2 ^ 6 + pers.toNat * 2 ^ 4 + intEn.toNat * 2 + sd.toNat := by
  simp only [alsConfWord, toNat_append_bits, BitVec.toNat_ofNat]
  omega

theorem toNat_psmWord : (psmWord mode en).toNat = mode.toNat * 2 + en.toNat := by
  simp only [psmWord, toNat_append_bits, BitVec.toNat_ofNat]
  omega

theorem toNat_alsIntWord :
    (alsIntWord low high).toNat = low.toNat * 2 ^ 15 + high.toNat * 2 ^ 14 := by
  simp only [alsIntWord, toNat_append_bits, BitVec.toNat_ofNat]
  omega

theorem encode_fmtAlsConf :
    encode (.fmtAlsConf gain it pers intEn sd) = split16 (alsConfWord gain it pers intEn sd) := rfl

theorem encode_fmtPsm : encode (.fmtPsm mode en) = [psmWord mode en] := rfl

theorem encode_fmtAlsInt : encode (.fmtAlsInt low high) = split16 (alsIntWord low high) := rfl

theorem decodeAlsConf_alsConfWord :
    decodeAlsConf (alsConfWord gain it pers intEn sd) = .fmtAlsConf gain it pers intEn sd := by
  rw [decodeAlsConf]
  congr 1 <;>
  · apply extractLsb'_eq_of_toNat
    rw [toNat_alsConfWord]
    omega

theorem decodePsm_psmWord : decodePsm (psmWord mode en) = .fmtPsm mode en := by
  rw [decodePsm]
  congr 1 <;>
  · apply extractLsb'_eq_of_toNat
    rw [toNat_psmWord]
    omega

theorem decodeAlsInt_alsIntWord : decodeAlsInt (alsIntWord low high) = .fmtAlsInt low high := by
  rw [decodeAlsInt]
  congr 1 <;>
  · apply extractLsb'_eq_of_toNat
    rw [toNat_alsIntWord]
    omega

end Words

/-! ### Decoding what was encoded -/

theorem append_halves (v : BitVec 16) : v.extractLsb' 8 8 ++ v.extractLsb' 0 8 = v :=
  BitVec.extractLsb'_append_extractLsb' (w := 8) (len := 8)

theorem append_thirds (v : BitVec 24) :
    v.extractLsb' 16 8 ++ v.extractLsb' 8 8 ++ v.extractLsb' 0 8 = v := by
  have hhigh : v.extractLsb' 16 8 ++ v.extractLsb' 8 8 = v.extractLsb' 8 16 :=
    BitVec.extractLsb'_append_extractLsb'_eq_extractLsb' rfl
  rw [hhigh]
  exact BitVec.extractLsb'_append_extractLsb' (w := 16) (len := 8)

theorem word16_split16 (v : BitVec 16) : word16 (split16 v) = .ok v :=
  congrArg Except.ok (append_halves v)

theorem word24_split24 (v : BitVec 24) : word24 (split24 v) = .ok v :=
  congrArg Except.ok (append_thirds v)

/-- A request code is `op` beside the selector, whose bits every operation keeps
(30_encoding.md R74 to R76). -/
theorem decode_encode_operation {i : Instr} (h : sourceOf i = .requestPort) :
    decode .requestPort (encode i) = .ok i := by
  cases i with
  | encode | unpack | decflags | decp24 | dect16 | decu16 | lookup | lkrefresh | modecmd =>
    simp only [encode, decode, decodeRequest, BitVec.extractLsb'_append_eq_left,
      BitVec.extractLsb'_append_eq_right]
    rfl
  | tolux x r =>
    simp (disch := decide) only [encode, decode, decodeRequest, BitVec.extractLsb'_append_eq_of_le,
      BitVec.extractLsb'_append_eq_of_add_le, BitVec.extractLsb'_eq_self, Nat.reduceSub]
    rfl
  | _ => exact nomatch h

/-- A byte with no row of its own is fmt.CMD's (41_config_tables.md R118, notes/assumptions/9.md). -/
theorem decodeCommand_of_undefined {c : Byte} (h : wellFormed (.fmtCmd c) = true) :
    decodeCommand c = .fmtCmd c := by
  have hne : c ∉ definedCommands := by simpa [wellFormed] using h
  simp only [definedCommands, List.mem_cons, List.not_mem_nil, or_false, not_or] at hne
  simp only [decodeCommand, hne, if_false]

/-- Settles O1: each word is a concatenation, whose parts the decoder takes at the positions where the
encoder put them. -/
theorem decodeOfEncode : Obligations.DecodeOfEncode := by
  intro i hi
  cases i with
  | encode | unpack | decflags | decp24 | dect16 | decu16 | tolux | lookup | lkrefresh | modecmd =>
    exact decode_encode_operation rfl
  | fmtAlsConf gain it pers intEn sd =>
    rw [encode_fmtAlsConf, sourceOf, decode, decodeWord, word16_split16]
    exact congrArg Except.ok (decodeAlsConf_alsConfWord gain it pers intEn sd)
  | fmtAlsWh msb lsb | fmtAlsWl msb lsb =>
    rw [encode, sourceOf, decode, decodeWord, word16_split16, Except.map,
      BitVec.extractLsb'_append_eq_left, BitVec.extractLsb'_append_eq_right]
  | fmtPsm mode en => exact congrArg Except.ok (decodePsm_psmWord mode en)
  | fmtAlsInt low high =>
    rw [encode_fmtAlsInt, sourceOf, decode, decodeWord, word16_split16]
    exact congrArg Except.ok (decodeAlsInt_alsIntWord low high)
  | fmtCmd c => exact congrArg Except.ok (decodeCommand_of_undefined hi)
  | fmtP24 v => exact congrArg (Except.map Instr.fmtP24) (word24_split24 v)
  | fmtT16 v => exact congrArg (Except.map Instr.fmtT16) (word16_split16 v)
  | fmtU16 white v => cases white <;> exact congrArg (Except.map _) (word16_split16 v)
  | cmdCombined | cmdSingleTemperature | cmdSinglePressure | cmdDormant63ms | cmdDormant125ms
  | cmdDormant1s => rfl

/-- Settles O2: each word is decoded as it stands. -/
theorem wordsDecodeToTheirRows : Obligations.WordsDecodeToTheirRows :=
  ⟨rfl, rfl, rfl, rfl, rfl, rfl, rfl, rfl⟩

/-! ### Request codes -/

theorem decodeRequest_of_undefined {code : Byte} (h : code.toNat / 16 = 0 ∨ 11 ≤ code.toNat / 16) :
    decodeRequest code = .error .illegalRequest := by
  rw [decodeRequest, toNat_opcode]
  split
  case h_11 => rfl
  all_goals
    exfalso
    omega

theorem decodeRequest_of_defined {code : Byte}
    (h1 : 1 ≤ code.toNat / 16) (h2 : code.toNat / 16 ≤ 10) :
    ∃ i, decodeRequest code = .ok i ∧ sourceOf i = .requestPort := by
  rw [decodeRequest, toNat_opcode]
  generalize code.toNat / 16 = op at h1 h2
  interval_cases op <;> exact ⟨_, rfl, rfl⟩

/-- Settles O4: the decoder's answer to an undefined code is delivered as the response. -/
theorem undefinedRequestCodesAreIllegal : Obligations.UndefinedRequestCodesAreIllegal := by
  intro s p r rest hp
  refine ⟨fun hop => ⟨?_, rfl⟩, fun ⟨h1, h2⟩ => decodeRequest_of_defined h1 h2⟩
  have hd : decode .requestPort [r.code] = .error .illegalRequest := decodeRequest_of_undefined hop
  calc step s
      = runWord .requestPort [r.code] (s.accept (.request p r) rest) := step_of_pending_cons hp
    _ = .next ((s.accept (.request p r) rest).raise .illegalRequest) :=
        runWord_of_decode_error hd _

/-! ### UNPACK -/

/-- UNPACK of a raw value of its layout's length gives the codes of the layout's fields
(40_codec.md R94, R99). -/
theorem exec_unpack {l : LayoutSel} {lay : Layout} {s : State}
    (hl : layoutOfId l.bits.toNat = some lay) (hlen : s.port.raw.length = layoutLen lay) :
    exec (.unpack l) s = .next (s.respond (.ok (.fields (fieldOuts
      ((unpackItems (be s.port.raw) (layoutItems lay)).map (fun e => e.2)))))) := by
  have hop : unpackOp l.bits.toNat s.port.raw =
      .ok (unpackItems (be s.port.raw) (layoutItems lay)) := by
    simp only [unpackOp, hl, hlen, if_true]
  rw [exec, execUnpack, unpackRsp, hop]
  rfl

/-- DECFLAGS of a raw value of its layout's length gives the layout's single-bit fields
(40_codec.md R96, R99). -/
theorem exec_decflags {l : LayoutSel} {lay : Layout} {s : State}
    (hl : layoutOfId l.bits.toNat = some lay) (hlen : s.port.raw.length = layoutLen lay) :
    exec (.decflags l) s = .next (s.respond (.ok (.fields (fieldOuts
      ((flagItems (be s.port.raw) (layoutItems lay)).map (fun e => if e.2 then 1 else 0)))))) := by
  have hop : flagsOp l.bits.toNat s.port.raw =
      .ok (flagItems (be s.port.raw) (layoutItems lay)) := by
    simp only [flagsOp, hl, hlen, if_true]
  rw [exec, execDecflags, decflagsRsp, hop]
  rfl

/-- The code that UNPACK takes from a word is the word's bits (30_encoding.md R72). -/
theorem ofNat_code {m : Nat} (v : BitVec m) (k w n : Nat) :
    BitVec.ofNat n (v.toNat / 2 ^ k % 2 ^ w) = (v.extractLsb' k w).setWidth n := by
  apply BitVec.eq_of_toNat_eq
  rw [BitVec.toNat_ofNat, BitVec.toNat_setWidth, BitVec.extractLsb'_toNat, Nat.shiftRight_eq_div_pow]

theorem be_two_eq_toNat (b0 b1 : Byte) : be [b0, b1] = (b0 ++ b1).toNat := by
  simp only [be_two, toNat_append_bits, Nat.reducePow]

/-- Settles O11: the five codes are bits of the big-endian word. -/
theorem unpackAlsConfGivesTheFields : Obligations.UnpackAlsConfGivesTheFields := by
  intro s b0 b1 hraw
  rw [exec_unpack (lay := .alsConf) rfl (by rw [hraw]; rfl), hraw, be_two_eq_toNat]
  simp only [← ofNat_code]
  rfl

/-- A window's two codes are its two bytes. -/
theorem exec_unpack_window {l : LayoutSel} {lay : Layout} {s : State} {b0 b1 : Byte}
    (hl : layoutOfId l.bits.toNat = some lay)
    (hitems : layoutItems lay = [.field .msb 8, .field .lsb 8]) (hlen : layoutLen lay = 2)
    (hraw : s.port.raw = [b0, b1]) :
    exec (.unpack l) s = .next (s.respond (.ok (.fields ⟨some b0, some b1, none, none, none⟩))) := by
  have hmsb : BitVec.ofNat 8 ((b0 ++ b1).toNat / 2 ^ 8 % 2 ^ 8) = b0 := by
    rw [ofNat_code, BitVec.extractLsb'_append_eq_left, BitVec.setWidth_eq]
  have hlsb : BitVec.ofNat 8 ((b0 ++ b1).toNat / 2 ^ 0 % 2 ^ 8) = b1 := by
    rw [ofNat_code, BitVec.extractLsb'_append_eq_right, BitVec.setWidth_eq]
  have hfields : fieldOuts ((unpackItems (b0 ++ b1).toNat
      [.field .msb 8, .field .lsb 8]).map (fun e => e.2)) = ⟨some b0, some b1, none, none, none⟩ :=
    congrArg₂ (fun m b => FieldOuts.mk (some m) (some b) none none none) hmsb hlsb
  rw [exec_unpack hl (by rw [hraw, hlen]; rfl), hraw, hitems, be_two_eq_toNat, hfields]

/-- Settles O12: a window's codes are its bytes, and the codes of PSM and ALS_INT are bits of the first
byte. -/
theorem unpackShortLayoutsGivesTheFields : Obligations.UnpackShortLayoutsGivesTheFields := by
  refine ⟨?_, fun s b0 hraw => ?_, fun s b0 b1 hraw => ?_⟩
  · rintro s ⟨_⟩ b0 b1 (rfl | rfl) hraw
    · exact exec_unpack_window (lay := .alsWh) rfl rfl rfl hraw
    · exact exec_unpack_window (lay := .alsWl) rfl rfl rfl hraw
  · rw [exec_unpack (lay := .psm) rfl (by rw [hraw]; rfl), hraw, be_one]
    simp only [← ofNat_code]
    rfl
  · have hlow : b0.extractLsb' 7 1 = (b0 ++ b1).extractLsb' 15 1 :=
      (BitVec.extractLsb'_append_eq_of_le (xlo := b1) (start := 15) (by decide)).symm
    have hhigh : b0.extractLsb' 6 1 = (b0 ++ b1).extractLsb' 14 1 :=
      (BitVec.extractLsb'_append_eq_of_le (xlo := b1) (start := 14) (by decide)).symm
    rw [exec_unpack (lay := .alsInt) rfl (by rw [hraw]; rfl), hraw, be_two_eq_toNat, hlow, hhigh]
    simp only [← ofNat_code]
    rfl

/-! ### Filler bits -/

/-- The bits of the named fields of some items are set in `m`. -/
def coversFields (m : Nat) (is : List LayoutItem) : Prop :=
  match is with
  | [] => True
  | .filler _ :: rest => coversFields m rest
  | .field _ w :: rest => m / 2 ^ itemsWidth rest % 2 ^ w = 2 ^ w - 1 ∧ coversFields m rest

/-- The mask of a layout has its named bits set (40_codec.md R95). -/
theorem coversFields_namedMask (lay : Layout) : coversFields (namedMask lay) (layoutItems lay) := by
  cases lay <;> simp [coversFields, namedMask, layoutItems, itemsWidth, itemWidth]

/-- The bits of a covered field are not masked. -/
theorem masked_code {m k w : Nat} (h : m / 2 ^ k % 2 ^ w = 2 ^ w - 1) (v : Nat) :
    (v &&& m) / 2 ^ k % 2 ^ w = v / 2 ^ k % 2 ^ w := by
  rw [Nat.and_div_two_pow, Nat.and_mod_two_pow, h, Nat.and_two_pow_sub_one_eq_mod, Nat.mod_mod]

theorem unpackItems_masked {m : Nat} {is : List LayoutItem} (h : coversFields m is) (v : Nat) :
    unpackItems (v &&& m) is = unpackItems v is := by
  induction is with
  | nil => rfl
  | cons i rest ih =>
    cases i with
    | filler w => exact ih h
    | field f w =>
      obtain ⟨hfield, hrest⟩ := h
      rw [unpackItems, unpackItems, masked_code hfield, ih hrest]

theorem flagItems_masked {m : Nat} {is : List LayoutItem} (h : coversFields m is) (v : Nat) :
    flagItems (v &&& m) is = flagItems v is := by
  induction is with
  | nil => rfl
  | cons i rest ih =>
    cases i with
    | filler w => exact ih h
    | field f w =>
      obtain ⟨hfield, hrest⟩ := h
      by_cases hw : w = 1
      · subst hw
        have hbit := masked_code hfield v
        rw [pow_one] at hbit
        simp only [flagItems, if_true, hbit, ih hrest]
      · simp only [flagItems, if_neg hw, ih hrest]

/-- Settles O15: UNPACK and DECFLAGS give the same for a value and for its named bits alone. -/
theorem fillerBitsAreIgnored : Obligations.FillerBitsAreIgnored := by
  intro l lay s t hl hs ht hnamed
  have hcovers := coversFields_namedMask lay
  have hunpack : unpackItems (be s.port.raw) (layoutItems lay) =
      unpackItems (be t.port.raw) (layoutItems lay) := by
    rw [← unpackItems_masked hcovers, hnamed, unpackItems_masked hcovers]
  have hflags : flagItems (be s.port.raw) (layoutItems lay) =
      flagItems (be t.port.raw) (layoutItems lay) := by
    rw [← flagItems_masked hcovers, hnamed, flagItems_masked hcovers]
  exact ⟨_, _, exec_unpack hl hs, hunpack ▸ exec_unpack hl ht, exec_decflags hl hs,
    hflags ▸ exec_decflags hl ht⟩

/-! ### The words that the written formats assemble -/

theorem bytesOf_one_toNat (v : BitVec 8) : bytesOf 1 v.toNat = [v] := by
  rw [bytesOf_one, BitVec.ofNat_toNat, BitVec.setWidth_eq]

theorem bytesOf_two_toNat (v : BitVec 16) : bytesOf 2 v.toNat = split16 v := by
  rw [bytesOf_two, split16, BitVec.extractLsb', BitVec.extractLsb', Nat.shiftRight_eq_div_pow]
  rfl

theorem bytesOf_alsConfCodes (gain : BitVec 2) (it : BitVec 4) (pers : BitVec 2)
    (intEn sd : BitVec 1) :
    bytesOf 2 (assembled (fun f => (alsConfCodes gain it pers intEn sd f).toNat)
      (layoutItems .alsConf)) = encode (.fmtAlsConf gain it pers intEn sd) := by
  rw [encode_fmtAlsConf, ← bytesOf_two_toNat, toNat_alsConfWord]
  simp only [assembled, layoutItems, itemsWidth, itemWidth, alsConfCodes, Int.toNat_natCast]
  refine congrArg (bytesOf 2) ?_
  omega

theorem bytesOf_windowCodes {lay : Layout} (hlay : lay = .alsWh ∨ lay = .alsWl) (msb lsb : Byte) :
    bytesOf 2 (assembled (fun f => (windowCodes msb.toNat lsb.toNat f).toNat) (layoutItems lay)) =
      split16 (msb ++ lsb) := by
  rw [← bytesOf_two_toNat, toNat_append_bits]
  obtain rfl | rfl := hlay <;>
    simp only [assembled, layoutItems, itemsWidth, itemWidth, windowCodes, Int.toNat_natCast,
      Nat.mul_one, Nat.add_zero, pow_zero]

theorem bytesOf_psmCodes (mode : BitVec 2) (en : BitVec 1) :
    bytesOf 1 (assembled (fun f => (psmCodes mode en f).toNat) (layoutItems .psm)) =
      encode (.fmtPsm mode en) := by
  rw [encode_fmtPsm, ← bytesOf_one_toNat, toNat_psmWord]
  simp only [assembled, layoutItems, itemsWidth, itemWidth, psmCodes, Int.toNat_natCast]
  refine congrArg (bytesOf 1) ?_
  omega

/-! ### The written formats -/

/-- With the scope released a format whose codes are legal writes the whole buffer that they assemble to
(43_environment_ops.md R157, R159). -/
theorem encodeAndWrite_legal {l : Nat} {lay : Layout} {c : Field → Int} {a : BusAddr}
    {raw : List Byte} (hl : layoutOfId l = some lay)
    (hc : ∀ f w, .field f w ∈ layoutItems lay → 0 ≤ c f ∧ c f < 2 ^ w)
    (hraw : bytesOf (layoutLen lay) (assembled (fun f => (c f).toNat) (layoutItems lay)) = raw)
    (ha : registerLength a = some (layoutLen lay)) {s : State} (hs : s.scope = false) :
    s.encodeAndWrite l (codesOf lay c) a = .next (afterWrite s a raw) := by
  rw [State.encodeAndWrite, encodeOp_codesOf hl hc, hraw]
  exact busWrite_eq_afterWrite hs (by rw [ha, ← hraw, bytesOf_length])

/-- Settles O33: the codes of each format are legal and assemble to its word; a byte of fmt.CMD is
written unchecked. -/
theorem writtenWordsReachTheirRegister : Obligations.WrittenWordsReachTheirRegister := by
  rintro i a (⟨⟨gain, it, pers, intEn, sd, rfl⟩, rfl⟩ | ⟨⟨msb, lsb, rfl⟩, rfl⟩ |
    ⟨⟨msb, lsb, rfl⟩, rfl⟩ | ⟨⟨mode, en, rfl⟩, rfl⟩ | ⟨⟨c, rfl⟩, rfl⟩) s hs
  · exact encodeAndWrite_legal (l := 0x0) (lay := .alsConf) rfl (alsConfCodes_fit gain it pers intEn sd)
      (bytesOf_alsConfCodes gain it pers intEn sd) rfl hs
  · rw [exec, encode]
    exact encodeAndWrite_legal (a := alsReg 0x01#8) (l := 0x1) (lay := .alsWh) rfl
      (windowCodes_fit_bytes (.inl rfl) msb lsb) (bytesOf_windowCodes (.inl rfl) msb lsb) rfl hs
  · rw [exec, encode]
    exact encodeAndWrite_legal (a := alsReg 0x02#8) (l := 0x2) (lay := .alsWl) rfl
      (windowCodes_fit_bytes (.inr rfl) msb lsb) (bytesOf_windowCodes (.inr rfl) msb lsb) rfl hs
  · exact encodeAndWrite_legal (l := 0x3) (lay := .psm) rfl (psmCodes_fit mode en)
      (bytesOf_psmCodes mode en) rfl hs
  · exact busWrite_eq_afterWrite hs rfl

/-! ### The read formats -/

theorem decp24Op_split24 (v : BitVec 24) : decp24Op (split24 v) = .ok v.toInt := by
  rw [split24, decp24Op_bytes, append_thirds]

theorem dect16Op_split16 (v : BitVec 16) : dect16Op (split16 v) = .ok v.toInt := by
  rw [split16, dect16Op_bytes, append_halves]

theorem decu16Op_split16 (v : BitVec 16) : decu16Op (split16 v) = .ok v.toNat := by
  rw [split16, decu16Op, ← toNat_append_bits, append_halves]

theorem be_split16 (v : BitVec 16) : be (split16 v) = v.toNat := by
  rw [split16, be_two_eq_toNat, append_halves]

theorem flagsOp_alsIntWord (low high : BitVec 1) :
    flagsOp 0x6 (split16 (alsIntWord low high)) =
      .ok [(.intLow, decide (low.toNat = 1)), (.intHigh, decide (high.toNat = 1))] := by
  have hlow : (alsIntWord low high).toNat / 2 ^ 15 % 2 = low.toNat := by
    rw [toNat_alsIntWord]
    omega
  have hhigh : (alsIntWord low high).toNat / 2 ^ 14 % 2 = high.toNat := by
    rw [toNat_alsIntWord]
    omega
  rw [← hlow, ← hhigh, ← be_split16]
  rfl

theorem ofNat_flag (b : BitVec 1) :
    BitVec.ofNat 8 (if decide (b.toNat = 1) then 1 else 0) = b.setWidth 8 := by
  revert b
  decide

/-- A composite word leaves nothing but its reads inside one scope, and its response
(43_environment_ops.md R150, R151). -/
theorem deliveredComposite_respond {s : State} (hs : s.scope = false) (as : List BusAddr)
    (r : Response) : (s.deliveredComposite as).respond r = { s with
      bus := s.bus ++ .enterScope :: (as.map (fun a => .read a 1 .done) ++ [.leaveScope])
      port := PortInputs.idle
      responses := s.responses ++ [r] } := by
  cases s
  simp_all [State.deliveredComposite, State.delivered, State.enterScope, State.leaveScope, State.event,
    State.respond]

theorem exec_fmtAlsInt_released {s : State} (hs : s.scope = false) (low high : BitVec 1) :
    exec (.fmtAlsInt low high) s = .next ((s.delivered [alsReg 0x06#8] 2).respond
      (.ok (.fields ⟨some (low.setWidth 8), some (high.setWidth 8), none, none, none⟩))) := by
  have hflags : flagsOp 0x6 (split16 (low ++ high ++ 0#14)) = _ := flagsOp_alsIntWord low high
  rw [exec, execFmtAlsInt, unlessScope_released hs, hflags, ← ofNat_flag, ← ofNat_flag]
  rfl

theorem exec_fmtU16_released {s : State} (hs : s.scope = false) (white : Bool) (v : BitVec 16) :
    exec (.fmtU16 white v) s =
      .next ((s.delivered [alsReg (if white then 0x05#8 else 0x04#8)] 2).respond
        (.ok (.res (v.setWidth 32)))) := by
  rw [exec, execFmtU16, unlessScope_released hs, decu16Op_split16, ← BitVec.ofNat_toNat]
  rfl

theorem exec_fmtP24_released {s : State} (hs : s.scope = false) (v : BitVec 24) :
    exec (.fmtP24 v) s =
      .next ((s.deliveredComposite pressureRegs).respond (.ok (.res (v.signExtend 32)))) := by
  rw [exec, execFmtP24, unlessScope_released hs, decp24Op_split24]
  rfl

theorem exec_fmtT16_released {s : State} (hs : s.scope = false) (v : BitVec 16) :
    exec (.fmtT16 v) s =
      .next ((s.deliveredComposite temperatureRegs).respond (.ok (.res (v.signExtend 32)))) := by
  rw [exec, execFmtT16, unlessScope_released hs, dect16Op_split16]
  rfl

/-- Settles O35: a released scope lets each word be decoded, and a held one stops it before. -/
theorem readWordsAreDecoded : Obligations.ReadWordsAreDecoded := by
  refine ⟨fun s low high => ⟨fun hs => ?_, fun hs => exec_held hs nofun⟩,
    fun s white v => ⟨fun hs => ?_, fun hs => exec_held hs nofun⟩,
    fun s v => ⟨fun hs => ?_, fun hs => exec_held hs nofun⟩,
    fun s v => ⟨fun hs => ?_, fun hs => exec_held hs nofun⟩⟩
  · exact exec_fmtAlsInt_released hs low high
  · exact exec_fmtU16_released hs white v
  · rw [exec_fmtP24_released hs, deliveredComposite_respond hs]
    rfl
  · rw [exec_fmtT16_released hs, deliveredComposite_respond hs]
    rfl

/-! ### ENCODE of the slots at the port -/

theorem checkRange_natCast {c w : Nat} (h : c < 2 ^ w) : checkRange w (c : Int) = .ok c :=
  checkRange_ok (Int.natCast_nonneg c) (by exact_mod_cast h)

/-- A code or an option name that a slot carries is resolved to that code (40_codec.md R90, R98). -/
theorem resolveField_of_carries {t : Tables} {vals : List (Key × Operand)} {f : Field} {sl : Slot}
    {c w : Nat} (hlookup : vals.lookup (.field f) = some (slotOperand t f sl))
    (hcarries : carries t f sl c) (hc : c < 2 ^ w) : resolveField t vals f w = .ok c := by
  obtain ⟨-, ⟨hnamed, hval⟩ | ⟨hnamed, space, o, b, hspace, hname, hcode, hb⟩⟩ := hcarries
  · have hoperand : slotOperand t f sl = .code c := by simp [slotOperand, hnamed, hval]
    rw [resolveField, hlookup, hoperand]
    exact checkRange_natCast hc
  · have hoperand : slotOperand t f sl = .named o := by simp [slotOperand, hnamed, hspace, hname]
    simp only [resolveField, hlookup, hoperand, hspace, hcode, hb]
    exact checkRange_natCast hc

/-- The slots carry the codes `c` for the fields, one slot for each, and the slots after them are absent
(30_encoding.md R77). -/
def slotsCarry (t : Tables) (c : Field → Nat) (fs : List Field) (slots : List Slot) : Prop :=
  match fs, slots with
  | [], slots => ∀ sl ∈ slots, sl.present = false
  | _ :: _, [] => False
  | f :: fs, sl :: slots => carries t f sl (c f) ∧ slotsCarry t c fs slots

theorem slotValues_of_absent {t : Tables} {slots : List Slot} (h : ∀ sl ∈ slots, sl.present = false)
    (k : Nat) : slotValues t [] slots k = [] := by
  induction slots generalizing k with
  | nil => rfl
  | cons sl slots ih =>
    obtain ⟨hsl, hslots⟩ := List.forall_mem_cons.mp h
    rw [slotValues, hsl, if_neg Bool.false_ne_true, ih hslots]

theorem slotValues_cons {t : Tables} {f : Field} {sl : Slot} (h : sl.present = true) (fs : List Field)
    (slots : List Slot) (k : Nat) :
    slotValues t (f :: fs) (sl :: slots) k =
      (.field f, slotOperand t f sl) :: slotValues t fs slots (k + 1) := by
  rw [slotValues, if_pos h]

theorem keys_slotValues {t : Tables} {c : Field → Nat} {fs : List Field} {slots : List Slot}
    (h : slotsCarry t c fs slots) (k : Nat) :
    (slotValues t fs slots k).map Prod.fst = fs.map Key.field := by
  induction fs generalizing slots k with
  | nil => rw [slotValues_of_absent h, List.map_nil, List.map_nil]
  | cons f fs ih =>
    cases slots with
    | nil => exact h.elim
    | cons sl slots =>
      obtain ⟨⟨hpresent, -⟩, hrest⟩ := h
      rw [slotValues_cons hpresent, List.map_cons, List.map_cons, ih hrest]

theorem keysKnown_of_keys {fs : List Field} {vals : List (Key × Operand)}
    (h : vals.map Prod.fst = fs.map Key.field) : keysKnown fs vals = true := by
  simp only [keysKnown, List.all_eq_true, List.any_eq_true, decide_eq_true_eq]
  intro kv hkv
  have hkey : kv.1 ∈ fs.map Key.field := h ▸ List.mem_map_of_mem hkv
  obtain ⟨f, hf, hkf⟩ := List.mem_map.mp hkey
  exact ⟨f, hf, hkf.symm⟩

theorem lookup_slotValues {t : Tables} {c : Field → Nat} {fs : List Field} {slots : List Slot}
    (h : slotsCarry t c fs slots) (k : Nat) {f : Field} (hf : f ∈ fs) :
    ∃ sl, carries t f sl (c f) ∧
      (slotValues t fs slots k).lookup (.field f) = some (slotOperand t f sl) := by
  induction fs generalizing slots k with
  | nil => exact absurd hf List.not_mem_nil
  | cons g fs ih =>
    cases slots with
    | nil => exact h.elim
    | cons sl slots =>
      obtain ⟨hcarries, hrest⟩ := h
      rw [slotValues_cons hcarries.1]
      by_cases hg : f = g
      · subst hg
        exact ⟨sl, hcarries, List.lookup_cons_self⟩
      · have hne : (Key.field f == .field g) = false := by simpa using hg
        rw [List.lookup_cons, hne]
        exact ih hrest (k + 1) (List.mem_of_ne_of_mem hg hf)

/-- ENCODE of slots that carry a legal code for each field is the whole buffer that the codes assemble to
(40_codec.md R90, R98). -/
theorem exec_encode_of_slotsCarry {l : LayoutSel} {lay : Layout} {c : Field → Nat} {s : State}
    (hl : layoutOfId l.bits.toNat = some lay)
    (hslots : slotsCarry s.tables c (layoutFields lay) s.port.slots)
    (hc : codesFit c (layoutItems lay)) :
    exec (.encode l) s = .next (s.respond (.ok (.bytes
      (bytesOf (layoutLen lay) (assembled c (layoutItems lay)))))) := by
  have hresolve : ∀ f w, .field f w ∈ layoutItems lay →
      resolveField s.tables (slotValues s.tables (layoutFields lay) s.port.slots 0) f w =
        .ok (c f) := by
    intro f w hm
    obtain ⟨sl, hcarries, hlookup⟩ := lookup_slotValues hslots 0 (mem_itemFields.mpr ⟨w, hm⟩)
    exact resolveField_of_carries hlookup hcarries (hc f w hm)
  have hrsp : encodeRsp s.tables l s.port =
      .ok (.bytes (bytesOf (layoutLen lay) (assembled c (layoutItems lay)))) := by
    simp only [encodeRsp, portValues, encodeOp, hl, encodeLayout,
      keysKnown_of_keys (keys_slotValues hslots 0), if_true, assemble_ok hresolve, Nat.zero_mul,
      Nat.zero_add, Except.map]
  rw [exec, execEncode, hrsp, State.answer_ok]

theorem fieldMax_succ {lay : Layout} {f : Field} {w : Nat} (h : .field f w ∈ layoutItems lay) :
    fieldMax f + 1 = 2 ^ w := by
  cases lay with
  | alsConf =>
    simp only [layoutItems, List.mem_cons, LayoutItem.field.injEq, List.not_mem_nil, reduceCtorEq,
      or_false, false_or] at h
    obtain ⟨rfl, rfl⟩ | ⟨rfl, rfl⟩ | ⟨rfl, rfl⟩ | ⟨rfl, rfl⟩ | ⟨rfl, rfl⟩ := h <;> rfl
  | alsWh | alsWl | psm | alsInt =>
    simp only [layoutItems, List.mem_cons, LayoutItem.field.injEq, List.not_mem_nil, reduceCtorEq,
      or_false, false_or] at h
    obtain ⟨rfl, rfl⟩ | ⟨rfl, rfl⟩ := h <;> rfl

theorem codesFit_of_le_fieldMax {lay : Layout} {c : Field → Nat}
    (h : ∀ f ∈ layoutFields lay, c f ≤ fieldMax f) : codesFit c (layoutItems lay) := by
  intro f w hm
  have hle := h f (mem_itemFields.mpr ⟨w, hm⟩)
  have hmax := fieldMax_succ hm
  omega

/-! ### The register formulas -/

theorem or_eq_add {x y k : Nat} (hx : 2 ^ k ∣ x) (hy : y < 2 ^ k) : x ||| y = x + y := by
  obtain ⟨q, rfl⟩ := hx
  exact (Nat.two_pow_add_eq_or_of_lt hy q).symm

/-- The codes of ALS_CONF's fields. -/
def alsConfPortCodes (gain it pers intEn sd : Nat) (f : Field) : Nat :=
  match f with
  | .gain => gain
  | .it => it
  | .pers => pers
  | .intEn => intEn
  | _ => sd

/-- The codes of a layout's two fields, the first of which is `first`. -/
def twoPortCodes (first : Field) (a b : Nat) (f : Field) : Nat :=
  if f = first then a else b

theorem assembled_alsConfPortCodes {gain it pers intEn sd : Nat} (hit : it ≤ 15) (hpers : pers ≤ 3)
    (hintEn : intEn ≤ 1) (hsd : sd ≤ 1) :
    assembled (alsConfPortCodes gain it pers intEn sd) (layoutItems .alsConf) =
      gain <<< 11 ||| it <<< 6 ||| pers <<< 4 ||| intEn <<< 1 ||| sd := by
  simp only [Nat.shiftLeft_eq]
  rw [or_eq_add (y := it * 2 ^ 6) (k := 11) (by omega) (by omega),
    or_eq_add (y := pers * 2 ^ 4) (k := 6) (by omega) (by omega),
    or_eq_add (y := intEn * 2 ^ 1) (k := 4) (by omega) (by omega),
    or_eq_add (y := sd) (k := 1) (by omega) (by omega)]
  simp only [assembled, layoutItems, itemsWidth, itemWidth, alsConfPortCodes]
  omega

theorem assembled_psmPortCodes (mode : Nat) {en : Nat} (hen : en ≤ 1) :
    assembled (twoPortCodes .psmMode mode en) (layoutItems .psm) = mode <<< 1 ||| en := by
  rw [Nat.shiftLeft_eq, or_eq_add (k := 1) (by omega) (by omega)]
  simp [assembled, layoutItems, itemsWidth, itemWidth, twoPortCodes]

theorem assembled_alsIntPortCodes (low : Nat) {high : Nat} (hhigh : high ≤ 1) :
    assembled (twoPortCodes .intLow low high) (layoutItems .alsInt) =
      (low <<< 7 ||| high <<< 6) * 256 := by
  rw [Nat.shiftLeft_eq, Nat.shiftLeft_eq, or_eq_add (k := 7) (by omega) (by omega)]
  simp only [assembled, layoutItems, itemsWidth, itemWidth, twoPortCodes, if_true, reduceCtorEq,
    if_false]
  omega

/-- The byte split of a 16-bit formula (30_encoding.md R71). -/
theorem bytesOf_two_eq_shift (v : Nat) :
    bytesOf 2 v = [BitVec.ofNat 8 (v >>> 8), BitVec.ofNat 8 (v &&& 0xFF)] := by
  have hlow : BitVec.ofNat 8 (v &&& 0xFF) = BitVec.ofNat 8 v := by
    apply BitVec.eq_of_toNat_eq
    rw [BitVec.toNat_ofNat, BitVec.toNat_ofNat, Nat.and_two_pow_sub_one_eq_mod v 8, Nat.mod_mod]
  rw [bytesOf_two, hlow, Nat.shiftRight_eq_div_pow]

theorem bytesOf_two_mul (v : Nat) : bytesOf 2 (v * 256) = [BitVec.ofNat 8 v, 0x00#8] := by
  have hlow : BitVec.ofNat 8 (v * 256) = 0x00#8 := by
    apply BitVec.eq_of_toNat_eq
    rw [BitVec.toNat_ofNat]
    exact Nat.mul_mod_left v 256
  rw [bytesOf_two, hlow, Nat.mul_div_cancel v (by decide)]

/-- Settles O5: the codes in the five slots assemble to the formula. -/
theorem encodeAlsConfGivesTheFormula : Obligations.EncodeAlsConfGivesTheFormula := by
  intro s gain it pers intEn sd h0 h1 h2 h3 h4 hgain hit hpers hintEn hsd
  have hslots : slotsCarry s.tables (alsConfPortCodes gain it pers intEn sd) (layoutFields .alsConf)
      s.port.slots := ⟨h0, h1, h2, h3, h4, nofun⟩
  have hfit : codesFit (alsConfPortCodes gain it pers intEn sd) (layoutItems .alsConf) :=
    codesFit_of_le_fieldMax (by
      simpa [layoutFields, layoutItems, itemFields, alsConfPortCodes, fieldMax] using
        ⟨hgain, hit, hpers, hintEn, hsd⟩)
  rw [exec_encode_of_slotsCarry (lay := .alsConf) rfl hslots hfit,
    assembled_alsConfPortCodes hit hpers hintEn hsd, layoutLen, bytesOf_two_eq_shift]

/-- Two slots that carry codes, and three that are absent. -/
theorem slotsCarry_two {t : Tables} {p : PortInputs} {first second : Field} {a b : Nat}
    (hne : second ≠ first) (h0 : carries t first p.slot0 a) (h1 : carries t second p.slot1 b)
    (h2 : p.slot2.present = false) (h3 : p.slot3.present = false) (h4 : p.slot4.present = false) :
    slotsCarry t (twoPortCodes first a b) [first, second] p.slots := by
  simp [PortInputs.slots, slotsCarry, twoPortCodes, hne, h0, h1, h2, h3, h4]

/-- Settles O6: the codes in the first two slots assemble to the formulas. -/
theorem encodePsmAndAlsIntGiveTheFormula : Obligations.EncodePsmAndAlsIntGiveTheFormula := by
  refine ⟨fun s mode en h0 h1 h2 h3 h4 hmode hen => ?_,
    fun s low high h0 h1 h2 h3 h4 hlow hhigh => ?_⟩
  · have hfit : codesFit (twoPortCodes .psmMode mode en) (layoutItems .psm) :=
      codesFit_of_le_fieldMax (by
        simpa [layoutFields, layoutItems, itemFields, twoPortCodes, fieldMax] using ⟨hmode, hen⟩)
    rw [exec_encode_of_slotsCarry (lay := .psm) rfl (slotsCarry_two (by decide) h0 h1 h2 h3 h4) hfit,
      assembled_psmPortCodes mode hen, layoutLen, bytesOf_one]
  · have hfit : codesFit (twoPortCodes .intLow low high) (layoutItems .alsInt) :=
      codesFit_of_le_fieldMax (by
        simpa [layoutFields, layoutItems, itemFields, twoPortCodes, fieldMax] using ⟨hlow, hhigh⟩)
    rw [exec_encode_of_slotsCarry (lay := .alsInt) rfl (slotsCarry_two (by decide) h0 h1 h2 h3 h4) hfit,
      assembled_alsIntPortCodes low hhigh, layoutLen, bytesOf_two_mul]

end Sys2Proof.Machine

/-! The statements of 40_codec.md: the round trips of ENCODE and UNPACK, the legality of codes and slots, the
window layouts, and DECFLAGS. -/

namespace Sys2Proof.Machine

/-! ### Byte sequences and their values -/

theorem bytesOf_succ (n v : Nat) :
    bytesOf (n + 1) v = BitVec.ofNat 8 (v / 256 ^ n) :: bytesOf n v := by
  simp [bytesOf, List.range_succ_eq_map, Function.comp_def, Nat.sub_sub, Nat.add_comm]

theorem be_bytesOf (n v : Nat) : be (bytesOf n v) = v % 256 ^ n := by
  induction n with
  | zero => simp [bytesOf, Nat.mod_one]
  | succ n ih =>
    rw [bytesOf_succ, be_cons, bytesOf_length, ih, BitVec.toNat_ofNat, pow_succ 256 n,
      Nat.mod_mul (a := 256 ^ n)]
    ring

/-- A byte sequence is that of its value, whatever stands above it. -/
theorem bytesOf_mul_add_be (raw : List Byte) (v : Nat) :
    bytesOf raw.length (v * 256 ^ raw.length + be raw) = raw := by
  induction raw generalizing v with
  | nil => rfl
  | cons b rest ih =>
    have hvalue : v * 256 ^ (rest.length + 1) + be (b :: rest) =
        (v * 256 + b.toNat) * 256 ^ rest.length + be rest := by
      rw [be_cons, pow_succ]
      ring
    have hhead : BitVec.ofNat 8 (((v * 256 + b.toNat) * 256 ^ rest.length + be rest) /
        256 ^ rest.length) = b := by
      rw [Nat.add_comm, Nat.add_mul_div_right _ _ (by positivity), Nat.div_eq_of_lt (be_lt rest)]
      apply BitVec.eq_of_toNat_eq
      rw [BitVec.toNat_ofNat, Nat.zero_add, Nat.mul_add_mod', Nat.mod_eq_of_lt b.isLt]
    rw [List.length_cons, hvalue, bytesOf_succ, hhead, ih]

theorem bytesOf_be (raw : List Byte) : bytesOf raw.length (be raw) = raw := by
  simpa using bytesOf_mul_add_be raw 0

/-! ### The codes in a register value -/

theorem map_fst_unpackItems (v : Nat) (is : List LayoutItem) :
    (unpackItems v is).map Prod.fst = itemFields is := by
  induction is with
  | nil => rfl
  | cons i rest ih =>
    cases i with
    | filler w => exact ih
    | field f w => rw [unpackItems, List.map_cons, ih, itemFields]

/-- `c` gives the codes that stand in the value `v` at the positions of the fields of some items. -/
def codesIn (c : Field → Nat) (v : Nat) (is : List LayoutItem) : Prop :=
  unpackItems v is = (itemFields is).map (fun f => (f, c f))

theorem codesIn_cons_field {c : Field → Nat} {v w : Nat} {f : Field} {rest : List LayoutItem} :
    codesIn c v (.field f w :: rest) ↔
      v / 2 ^ itemsWidth rest % 2 ^ w = c f ∧ codesIn c v rest := by
  simp [codesIn, unpackItems, itemFields]

theorem exists_codesIn {is : List LayoutItem} (h : (itemFields is).Nodup) (v : Nat) :
    ∃ c, codesIn c v is := by
  induction is with
  | nil => exact ⟨fun _ => 0, rfl⟩
  | cons i rest ih =>
    cases i with
    | filler w => exact ih h
    | field f w =>
      obtain ⟨hf, hrest⟩ := List.nodup_cons.mp h
      obtain ⟨c, hc⟩ := ih hrest
      refine ⟨Function.update c f (v / 2 ^ itemsWidth rest % 2 ^ w),
        codesIn_cons_field.mpr ⟨by rw [Function.update_self], ?_⟩⟩
      refine hc.trans (List.map_congr_left fun g hg => ?_)
      rw [Function.update_of_ne (ne_of_mem_of_not_mem hg hf)]

theorem codesFit_of_codesIn {c : Field → Nat} {v : Nat} {is : List LayoutItem}
    (h : codesIn c v is) : codesFit c is := by
  induction is with
  | nil => exact fun _ _ hm => absurd hm List.not_mem_nil
  | cons i rest ih =>
    cases i with
    | filler w => exact fun g u hm => ih h g u (by simpa using hm)
    | field f w =>
      obtain ⟨hcode, hrest⟩ := codesIn_cons_field.mp h
      intro g u hm
      obtain heq | hm := List.mem_cons.mp hm
      · cases heq
        rw [← hcode]
        exact Nat.mod_lt _ (by positivity)
      · exact ih hrest g u hm

theorem codesIn_assembled {c : Field → Nat} {is : List LayoutItem} (h : codesFit c is) :
    codesIn c (assembled c is) is := by
  simpa [codesIn] using unpackItems_assembled h 0

/-- Where `m` is the largest code of each field, the assembled `m` masks a value to the bits of its
codes. -/
theorem and_assembled_max {c m : Field → Nat} {v : Nat} {is : List LayoutItem}
    (hm : ∀ f w, .field f w ∈ is → m f + 1 = 2 ^ w) (hc : codesIn c v is) :
    v &&& assembled m is = assembled c is := by
  induction is with
  | nil => exact Nat.and_zero v
  | cons i rest ih =>
    have hmrest : ∀ f w, .field f w ∈ rest → m f + 1 = 2 ^ w :=
      fun f w h => hm f w (List.mem_cons_of_mem _ h)
    cases i with
    | filler w => exact ih hmrest hc
    | field f w =>
      obtain ⟨hcode, hrest⟩ := codesIn_cons_field.mp hc
      have hmax : m f = 2 ^ w - 1 := Nat.eq_sub_of_add_eq (hm f w List.mem_cons_self)
      have hlt : assembled m rest < 2 ^ itemsWidth rest :=
        assembled_lt fun g u h => by have := hmrest g u h; omega
      have hhigh : (v &&& assembled m (.field f w :: rest)) / 2 ^ itemsWidth rest = c f := by
        rw [Nat.and_div_two_pow, assembled, Nat.add_comm, Nat.add_mul_div_right _ _ (by positivity),
          Nat.div_eq_of_lt hlt, Nat.zero_add, hmax, Nat.and_two_pow_sub_one_eq_mod, hcode]
      have hlow : (v &&& assembled m (.field f w :: rest)) % 2 ^ itemsWidth rest =
          assembled c rest := by
        rw [Nat.and_mod_two_pow, assembled, Nat.mul_add_mod', ← Nat.and_mod_two_pow, ih hmrest hrest,
          Nat.mod_eq_of_lt (assembled_lt (codesFit_of_codesIn hrest))]
      rw [← Nat.div_add_mod (v &&& _) (2 ^ itemsWidth rest), hhigh, hlow, assembled, Nat.mul_comm]

/-- A layout's named bits are those of its fields' largest codes (40_codec.md R95). -/
theorem namedMask_eq_assembled (lay : Layout) :
    namedMask lay = assembled fieldMax (layoutItems lay) := by
  cases lay <;> rfl

theorem and_namedMask {lay : Layout} {c : Field → Nat} {v : Nat}
    (h : codesIn c v (layoutItems lay)) : v &&& namedMask lay = assembled c (layoutItems lay) := by
  rw [namedMask_eq_assembled]
  exact and_assembled_max (fun _ _ hm => fieldMax_succ hm) h

theorem le_fieldMax_of_codesFit {lay : Layout} {c : Field → Nat}
    (h : codesFit c (layoutItems lay)) : ∀ f ∈ layoutFields lay, c f ≤ fieldMax f := by
  intro f hf
  obtain ⟨w, hm⟩ := mem_itemFields.mp hf
  have hlt := h f w hm
  have hmax := fieldMax_succ hm
  omega

/-! ### UNPACK of what ENCODE gives, and ENCODE of what UNPACK gives -/

theorem unpackOp_of_codesIn {l : Nat} {lay : Layout} {c : Field → Nat} {raw : List Byte}
    (hl : layoutOfId l = some lay) (hlen : raw.length = layoutLen lay)
    (hc : codesIn c (be raw) (layoutItems lay)) : unpackOp l raw = .ok (mappingOf lay c) := by
  simp only [unpackOp, hl, hlen, if_true]
  exact congrArg Except.ok hc

theorem be_bytesOf_assembled {lay : Layout} {c : Field → Nat} (hc : codesFit c (layoutItems lay)) :
    be (bytesOf (layoutLen lay) (assembled c (layoutItems lay))) =
      assembled c (layoutItems lay) := by
  have hlt := assembled_lt hc
  rw [itemsWidth_layout, pow_mul] at hlt
  rw [be_bytesOf]
  exact Nat.mod_eq_of_lt hlt

theorem codesIn_bytesOf_assembled {lay : Layout} {c : Field → Nat}
    (hc : codesFit c (layoutItems lay)) :
    codesIn c (be (bytesOf (layoutLen lay) (assembled c (layoutItems lay)))) (layoutItems lay) := by
  rw [be_bytesOf_assembled hc]
  exact codesIn_assembled hc

theorem unpackOp_bytesOf_assembled {l : Nat} {lay : Layout} {c : Field → Nat}
    (hl : layoutOfId l = some lay) (hc : codesFit c (layoutItems lay)) :
    unpackOp l (bytesOf (layoutLen lay) (assembled c (layoutItems lay))) =
      .ok (mappingOf lay c) :=
  unpackOp_of_codesIn hl (bytesOf_length _ _) (codesIn_bytesOf_assembled hc)

theorem encodeOp_natCodes {l : Nat} {lay : Layout} {c : Field → Nat} (hl : layoutOfId l = some lay)
    (hc : codesFit c (layoutItems lay)) (t : Tables) :
    encodeOp t l (codesOf lay (fun f => c f)) =
      .ok (bytesOf (layoutLen lay) (assembled c (layoutItems lay))) :=
  encodeOp_codesOf hl
    (fun f w hm => ⟨Int.natCast_nonneg _, by exact_mod_cast hc f w hm⟩) t

/-- UNPACK of a raw value of its layout's length, and ENCODE of the codes that it gives
(40_codec.md R94, R95). -/
theorem exists_codes_of_raw {l : Nat} {lay : Layout} {raw : List Byte}
    (hl : layoutOfId l = some lay) (hlen : raw.length = layoutLen lay) (t : Tables) :
    ∃ c : Field → Nat, codesFit c (layoutItems lay) ∧ unpackOp l raw = .ok (mappingOf lay c) ∧
      encodeOp t l (codesOf lay (fun f => c f)) =
        .ok (bytesOf (layoutLen lay) (be raw &&& namedMask lay)) := by
  obtain ⟨c, hc⟩ := exists_codesIn (layoutFields_nodup lay) (be raw)
  have hfit := codesFit_of_codesIn hc
  exact ⟨c, hfit, unpackOp_of_codesIn hl hlen hc, and_namedMask hc ▸ encodeOp_natCodes hl hfit t⟩

theorem mappingOf_inj {lay : Layout} {c d : Field → Nat} (h : mappingOf lay c = mappingOf lay d) :
    ∀ f ∈ layoutFields lay, c f = d f :=
  fun f hf => congrArg Prod.snd (List.map_inj_left.mp h f hf)

/-- The codes of two assignments are the same where ENCODE gives the same bytes, because UNPACK recovers
them (40_codec.md R95). -/
theorem encodeOp_injective {l : Nat} {lay : Layout} {c d : Field → Nat} {t : Tables}
    (hl : layoutOfId l = some lay) (hc : codesFit c (layoutItems lay))
    (hd : codesFit d (layoutItems lay))
    (h : encodeOp t l (codesOf lay (fun f => c f)) = encodeOp t l (codesOf lay (fun f => d f))) :
    ∀ f ∈ layoutFields lay, c f = d f := by
  rw [encodeOp_natCodes hl hc, encodeOp_natCodes hl hd, Except.ok.injEq] at h
  have hmapping : Except.ok (mappingOf lay c) = .ok (mappingOf lay d) :=
    calc (Except.ok (mappingOf lay c) : Except Error _)
        = unpackOp l (bytesOf (layoutLen lay) (assembled c (layoutItems lay))) :=
          (unpackOp_bytesOf_assembled hl hc).symm
      _ = unpackOp l (bytesOf (layoutLen lay) (assembled d (layoutItems lay))) := by rw [h]
      _ = .ok (mappingOf lay d) := unpackOp_bytesOf_assembled hl hd
  exact mappingOf_inj (Except.ok.inj hmapping)

/-- A raw value is what ENCODE gives for some legal codes exactly when its filler bits are zero
(40_codec.md R95). -/
theorem encodeOp_image {l : Nat} {lay : Layout} (hl : layoutOfId l = some lay) (t : Tables)
    (raw : List Byte) :
    (∃ c : Field → Nat, (∀ f ∈ layoutFields lay, c f ≤ fieldMax f) ∧
      encodeOp t l (codesOf lay (fun f => c f)) = .ok raw) ↔
    (raw.length = layoutLen lay ∧ be raw &&& namedMask lay = be raw) := by
  constructor
  · rintro ⟨c, hle, henc⟩
    have hc := codesFit_of_le_fieldMax hle
    rw [encodeOp_natCodes hl hc, Except.ok.injEq] at henc
    subst henc
    refine ⟨bytesOf_length _ _, ?_⟩
    rw [and_namedMask (codesIn_bytesOf_assembled hc), be_bytesOf_assembled hc]
  · rintro ⟨hlen, hnamed⟩
    obtain ⟨c, hfit, -, henc⟩ := exists_codes_of_raw hl hlen t
    refine ⟨c, le_fieldMax_of_codesFit hfit, ?_⟩
    rw [henc, hnamed, ← hlen, bytesOf_be]

/-- Settles O10: the codes that ENCODE assembles are the codes that stand in the value, and the assembled
codes of a value are its named bits. -/
theorem encodeAndUnpackRoundTrip : Obligations.EncodeAndUnpackRoundTrip := by
  intro t l lay hl
  refine ⟨fun c hle => ?_, fun raw hlen => ?_, fun c d hle h => ?_, encodeOp_image hl t⟩
  · have hc := codesFit_of_le_fieldMax hle
    exact ⟨_, encodeOp_natCodes hl hc t, unpackOp_bytesOf_assembled hl hc⟩
  · obtain ⟨c, -, hunpack, hencode⟩ := exists_codes_of_raw hl hlen t
    exact ⟨c, hunpack, hencode⟩
  · have hc := codesFit_of_le_fieldMax fun f hf => (hle f hf).1
    have hd := codesFit_of_le_fieldMax fun f hf => (hle f hf).2
    exact encodeOp_injective hl hc hd h

/-! ### Illegal codes -/

/-- One code outside its field's range makes ENCODE answer ConfigurationError (40_codec.md R91). -/
theorem encodeOp_codesOf_error {l : Nat} {lay : Layout} {c : Field → Int}
    (hl : layoutOfId l = some lay)
    (h : ∃ f ∈ layoutFields lay, c f < 0 ∨ (fieldMax f : Int) < c f) (t : Tables) :
    encodeOp t l (codesOf lay c) = .error .configurationError := by
  obtain ⟨f, hf, hout⟩ := h
  obtain ⟨w, hm⟩ := mem_itemFields.mp hf
  have hmax : (fieldMax f : Int) + 1 = 2 ^ w := by exact_mod_cast fieldMax_succ hm
  have hresolve : resolveField t (codesOf lay c) f w = .error .configurationError := by
    rw [resolveField, codesOf, lookup_codes c hf]
    exact checkRange_error (by omega)
  simp only [encodeOp, hl, encodeLayout, keysKnown_codesOf, if_true,
    assemble_error ⟨f, w, hm, hresolve⟩, Except.map]

/-- Settles O9: a field's largest code is the largest of its width, which is what ENCODE checks. -/
theorem fieldCodesAreRangeChecked : Obligations.FieldCodesAreRangeChecked := by
  refine ⟨fun _ _ _ hm => fieldMax_succ hm,
    fun t l lay c hl => ⟨fun hlegal => ?_, fun hout => encodeOp_codesOf_error hl hout t⟩⟩
  have hfit : codesFit (fun f => (c f).toNat) (layoutItems lay) :=
    codesFit_of_le_fieldMax fun f hf => by have := hlegal f hf; omega
  have hrange : ∀ f w, .field f w ∈ layoutItems lay → 0 ≤ c f ∧ c f < 2 ^ w := by
    intro f w hm
    have hle := hlegal f (mem_itemFields.mpr ⟨w, hm⟩)
    have hmax : (fieldMax f : Int) + 1 = 2 ^ w := by exact_mod_cast fieldMax_succ hm
    omega
  exact ⟨_, encodeOp_codesOf hl hrange t, unpackOp_bytesOf_assembled hl hfit⟩

/-! ### A selector with no layout -/

theorem layoutOfId_eq_none {l : Nat} (h : l ∉ [0x0, 0x1, 0x2, 0x3, 0x6]) : layoutOfId l = none := by
  unfold layoutOfId
  split
  case h_6 => rfl
  all_goals exact absurd (by decide) h

theorem exec_encode_of_no_layout {l : LayoutSel} (hl : layoutOfId l.bits.toNat = none) (s : State) :
    exec (.encode l) s = .next (s.respond (.err .unknownRegisterError)) := by
  simp only [exec, execEncode, encodeRsp, encodeOp, hl]
  rfl

theorem exec_unpack_of_no_layout {l : LayoutSel} (hl : layoutOfId l.bits.toNat = none) (s : State) :
    exec (.unpack l) s = .next (s.respond (.err .unknownRegisterError)) := by
  simp only [exec, execUnpack, unpackRsp, unpackOp, hl]
  rfl

theorem exec_decflags_of_no_layout {l : LayoutSel} (hl : layoutOfId l.bits.toNat = none)
    (s : State) : exec (.decflags l) s = .next (s.respond (.err .unknownRegisterError)) := by
  simp only [exec, execDecflags, decflagsRsp, flagsOp, hl]
  rfl

/-- Settles O16: the layout is looked up before the bytes are counted. -/
theorem unknownLayoutComesBeforeByteCount : Obligations.UnknownLayoutComesBeforeByteCount := by
  intro l s h
  have hl := layoutOfId_eq_none h
  exact ⟨exec_unpack_of_no_layout hl s, exec_decflags_of_no_layout hl s⟩

/-! ### Windows -/

/-- The two bytes of a window are its two codes as they are (40_codec.md R100). -/
theorem bytesOf_assembled_window {lay : Layout} (hlay : lay = .alsWh ∨ lay = .alsWl)
    {c : Field → Nat} (hlsb : c .lsb ≤ 255) :
    bytesOf (layoutLen lay) (assembled c (layoutItems lay)) =
      [BitVec.ofNat 8 (c .msb), BitVec.ofNat 8 (c .lsb)] := by
  have hvalue : assembled c (layoutItems lay) = c .msb * 256 + c .lsb := by
    obtain rfl | rfl := hlay <;> simp [assembled, layoutItems, itemsWidth, itemWidth]
  have hlen : layoutLen lay = 2 := by
    obtain rfl | rfl := hlay <;> rfl
  have hhigh : (c .msb * 256 + c .lsb) / 256 = c .msb := by omega
  have hlow : BitVec.ofNat 8 (c .msb * 256 + c .lsb) = BitVec.ofNat 8 (c .lsb) := by
    apply BitVec.eq_of_toNat_eq
    rw [BitVec.toNat_ofNat, BitVec.toNat_ofNat, Nat.mul_add_mod']
  rw [hvalue, hlen, bytesOf_two, hhigh, hlow]

theorem bytesOf_windowCodes_int {lay : Layout} (hlay : lay = .alsWh ∨ lay = .alsWl) {m b : Int}
    (hm : 0 ≤ m) (hb : 0 ≤ b) (hb' : b ≤ 255) :
    bytesOf (layoutLen lay) (assembled (fun f => (windowCodes m b f).toNat) (layoutItems lay)) =
      [BitVec.ofInt 8 m, BitVec.ofInt 8 b] := by
  lift m to Nat using hm
  lift b to Nat using hb
  rw [BitVec.ofInt_natCast, BitVec.ofInt_natCast]
  exact bytesOf_assembled_window hlay (by exact_mod_cast hb')

theorem layoutFields_window {lay : Layout} (hlay : lay = .alsWh ∨ lay = .alsWl) :
    layoutFields lay = [.msb, .lsb] := by
  obtain rfl | rfl := hlay <;> rfl

theorem codesOf_windowCodes {lay : Layout} (hlay : lay = .alsWh ∨ lay = .alsWl) (m b : Int) :
    codesOf lay (windowCodes m b) = [(.field .msb, .code m), (.field .lsb, .code b)] := by
  rw [codesOf, layoutFields_window hlay]
  rfl

theorem encodeOp_window {l : Nat} {lay : Layout} (hl : layoutOfId l = some lay)
    (hlay : lay = .alsWh ∨ lay = .alsWl) {m b : Int} (hm : 0 ≤ m) (hm' : m ≤ 255) (hb : 0 ≤ b)
    (hb' : b ≤ 255) (t : Tables) :
    encodeOp t l [(.field .msb, .code m), (.field .lsb, .code b)] =
      .ok [BitVec.ofInt 8 m, BitVec.ofInt 8 b] := by
  rw [← codesOf_windowCodes hlay, encodeOp_codesOf hl (windowCodes_fit hlay hm hm' hb hb'),
    bytesOf_windowCodes_int hlay hm hb hb']

theorem encodeOp_window_error {l : Nat} {lay : Layout} (hl : layoutOfId l = some lay)
    (hlay : lay = .alsWh ∨ lay = .alsWl) {m b : Int} (h : m < 0 ∨ 255 < m ∨ b < 0 ∨ 255 < b)
    (t : Tables) :
    encodeOp t l [(.field .msb, .code m), (.field .lsb, .code b)] =
      .error .configurationError := by
  rw [← codesOf_windowCodes hlay]
  refine encodeOp_codesOf_error hl ?_ t
  rw [layoutFields_window hlay]
  obtain hm | hm | hb | hb := h
  · exact ⟨.msb, by simp, .inl hm⟩
  · exact ⟨.msb, by simp, .inr hm⟩
  · exact ⟨.lsb, by simp, .inl hb⟩
  · exact ⟨.lsb, by simp, .inr hb⟩

/-- The count that a window's two bytes hold (40_codec.md R100). -/
theorem be_window {m b : Int} (hm : 0 ≤ m) (hm' : m ≤ 255) (hb : 0 ≤ b) (hb' : b ≤ 255) :
    (be [BitVec.ofInt 8 m, BitVec.ofInt 8 b] : Int) = 256 * m + b := by
  lift m to Nat using hm
  lift b to Nat using hb
  rw [BitVec.ofInt_natCast, BitVec.ofInt_natCast, be_two, BitVec.toNat_ofNat, BitVec.toNat_ofNat]
  omega

theorem layoutOfId_window {l : Nat} (h : l = 0x1 ∨ l = 0x2) :
    ∃ lay, layoutOfId l = some lay ∧ (lay = .alsWh ∨ lay = .alsWl) := by
  obtain rfl | rfl := h
  · exact ⟨_, rfl, .inl rfl⟩
  · exact ⟨_, rfl, .inr rfl⟩

theorem exec_encode_window {s : State} {l : LayoutSel} {m b : Nat}
    (hl : l.bits = 0x1#4 ∨ l.bits = 0x2#4) (h0 : carries s.tables .msb s.port.slot0 m)
    (h1 : carries s.tables .lsb s.port.slot1 b) (h2 : s.port.slot2.present = false)
    (h3 : s.port.slot3.present = false) (h4 : s.port.slot4.present = false) (hm : m ≤ 255)
    (hb : b ≤ 255) :
    exec (.encode l) s =
      .next (s.respond (.ok (.bytes [BitVec.ofNat 8 m, BitVec.ofNat 8 b]))) := by
  obtain ⟨lay, hid, hlay⟩ := layoutOfId_window (l := l.bits.toNat) (by
    obtain h | h := hl <;> simp [h])
  have hfields := layoutFields_window hlay
  have hslots : slotsCarry s.tables (twoPortCodes .msb m b) (layoutFields lay) s.port.slots :=
    hfields ▸ slotsCarry_two (by decide) h0 h1 h2 h3 h4
  have hfit : codesFit (twoPortCodes .msb m b) (layoutItems lay) :=
    codesFit_of_le_fieldMax (by simp [hfields, twoPortCodes, fieldMax, hm, hb])
  rw [exec_encode_of_slotsCarry hid hslots hfit, bytesOf_assembled_window hlay hb]
  rfl

/-- With the scope released the consumer call is one write of its two bytes (43_environment_ops.md
R157). -/
theorem runCall_setThresholdWindow {s : State} (hs : s.scope = false) (high : Bool) {m b : Int}
    (hm : 0 ≤ m) (hm' : m ≤ 255) (hb : 0 ≤ b) (hb' : b ≤ 255) :
    runCall (.setThresholdWindow high m b) s =
      .next (afterWrite s ⟨0x10#7, if high then 0x01#8 else 0x02#8⟩
        [BitVec.ofInt 8 m, BitVec.ofInt 8 b]) := by
  cases high with
  | true =>
    exact encodeAndWrite_legal (l := 0x1) (lay := .alsWh) rfl
      (windowCodes_fit (.inl rfl) hm hm' hb hb') (bytesOf_windowCodes_int (.inl rfl) hm hb hb') rfl hs
  | false =>
    exact encodeAndWrite_legal (l := 0x2) (lay := .alsWl) rfl
      (windowCodes_fit (.inr rfl) hm hm' hb hb') (bytesOf_windowCodes_int (.inr rfl) hm hb hb') rfl hs

/-- Settles O7: both windows are two fields of a byte each, with no option namespace. -/
theorem windowsHoldTheirBytes : Obligations.WindowsHoldTheirBytes := by
  refine ⟨fun t l m b hl => ?_, fun s l m b hl h0 h1 h2 h3 h4 hm hb => ?_, ⟨rfl, rfl⟩,
    fun s high m b hm hm' hb hb' hs => ?_⟩
  · obtain ⟨lay, hid, hlay⟩ := layoutOfId_window hl
    exact ⟨fun hm hm' hb hb' => ⟨encodeOp_window hid hlay hm hm' hb hb' t, be_window hm hm' hb hb'⟩,
      fun hout => encodeOp_window_error hid hlay hout t⟩
  · exact exec_encode_window hl h0 h1 h2 h3 h4 hm hb
  · exact runCall_setThresholdWindow hs high hm hm' hb hb'

/-! ### DECFLAGS -/

/-- The flag that DECFLAGS takes from a word is the word's bit (30_encoding.md R72). -/
theorem ofNat_flag_of_word {m : Nat} (v : BitVec m) (k : Nat) :
    BitVec.ofNat 8 (if decide (v.toNat / 2 ^ k % 2 = 1) then 1 else 0) =
      (v.extractLsb' k 1).setWidth 8 := by
  rw [← ofNat_flag, BitVec.extractLsb'_toNat, Nat.shiftRight_eq_div_pow, pow_one]

theorem extract_low_byte (b0 b1 : Byte) {k : Nat} (h : k + 1 ≤ 8) :
    (b0 ++ b1).extractLsb' k 1 = b1.extractLsb' k 1 :=
  BitVec.extractLsb'_append_eq_of_add_le h

theorem extract_high_byte (b0 b1 : Byte) (k : Nat) :
    (b0 ++ b1).extractLsb' (8 + k) 1 = b0.extractLsb' k 1 := by
  rw [BitVec.extractLsb'_append_eq_of_le (by omega), Nat.add_sub_cancel_left]

theorem exec_decflags_alsConf {s : State} {b0 b1 : Byte} (hraw : s.port.raw = [b0, b1]) :
    exec (.decflags ⟨0x0#4⟩) s = .next (s.respond (.ok (.fields
      ⟨some ((b1.extractLsb' 1 1).setWidth 8), some ((b1.extractLsb' 0 1).setWidth 8),
       none, none, none⟩))) := by
  rw [exec_decflags (lay := .alsConf) rfl (by rw [hraw]; rfl), hraw, be_two_eq_toNat,
    ← extract_low_byte b0 b1 (by decide), ← extract_low_byte b0 b1 (by decide),
    ← ofNat_flag_of_word, ← ofNat_flag_of_word]
  rfl

theorem exec_decflags_window {l : LayoutSel} {lay : Layout} {s : State} {b0 b1 : Byte}
    (hl : layoutOfId l.bits.toNat = some lay) (hlay : lay = .alsWh ∨ lay = .alsWl)
    (hraw : s.port.raw = [b0, b1]) :
    exec (.decflags l) s = .next (s.respond (.ok (.fields ⟨none, none, none, none, none⟩))) := by
  obtain rfl | rfl := hlay <;>
  · rw [exec_decflags hl (by rw [hraw]; rfl)]
    rfl

theorem exec_decflags_psm {s : State} {b0 : Byte} (hraw : s.port.raw = [b0]) :
    exec (.decflags ⟨0x3#4⟩) s = .next (s.respond (.ok (.fields
      ⟨some ((b0.extractLsb' 0 1).setWidth 8), none, none, none, none⟩))) := by
  rw [exec_decflags (lay := .psm) rfl (by rw [hraw]; rfl), hraw, be_one, ← ofNat_flag_of_word]
  rfl

theorem exec_decflags_alsInt {s : State} {b0 b1 : Byte} (hraw : s.port.raw = [b0, b1]) :
    exec (.decflags ⟨0x6#4⟩) s = .next (s.respond (.ok (.fields
      ⟨some ((b0.extractLsb' 7 1).setWidth 8), some ((b0.extractLsb' 6 1).setWidth 8),
       none, none, none⟩))) := by
  rw [exec_decflags (lay := .alsInt) rfl (by rw [hraw]; rfl), hraw, be_two_eq_toNat,
    ← extract_high_byte b0 b1, ← extract_high_byte b0 b1, ← ofNat_flag_of_word,
    ← ofNat_flag_of_word]
  rfl

/-- Settles O13: each layout's fields of width 1 are bits of one of its bytes. -/
theorem decflagsGivesTheSingleBitFields : Obligations.DecflagsGivesTheSingleBitFields :=
  ⟨fun _ _ _ hraw => ⟨exec_decflags_alsConf hraw,
    exec_decflags_window (lay := .alsWh) rfl (.inl rfl) hraw,
    exec_decflags_window (lay := .alsWl) rfl (.inr rfl) hraw, exec_decflags_alsInt hraw⟩,
   fun _ _ hraw => exec_decflags_psm hraw⟩

theorem mem_itemFields_of_mem_unpackItems {v c : Nat} {f : Field} {is : List LayoutItem}
    (h : (f, c) ∈ unpackItems v is) : f ∈ itemFields is :=
  map_fst_unpackItems v is ▸ List.mem_map_of_mem h

/-- The flags of some items are their codes of width 1, read as booleans (40_codec.md R96, R97). -/
theorem mem_flagItems {is : List LayoutItem} (h : (itemFields is).Nodup) (v : Nat) (f : Field)
    (b : Bool) : (f, b) ∈ flagItems v is ↔
      LayoutItem.field f 1 ∈ is ∧ ∃ c, (f, c) ∈ unpackItems v is ∧ b = decide (c = 1) := by
  induction is with
  | nil => simp [flagItems]
  | cons i rest ih =>
    cases i with
    | filler w => simpa [flagItems, unpackItems] using ih h
    | field g w =>
      obtain ⟨hg, hrest⟩ := List.nodup_cons.mp h
      have ih := ih hrest
      by_cases hf : f = g
      · subst hf
        have hitem : ∀ u, LayoutItem.field f u ∉ rest := fun u hm => hg (mem_itemFields.mpr ⟨u, hm⟩)
        have hcode : ∀ c, (f, c) ∉ unpackItems v rest :=
          fun c hm => hg (mem_itemFields_of_mem_unpackItems hm)
        have hflag : (f, b) ∉ flagItems v rest := fun hm => hitem 1 (ih.mp hm).1
        by_cases hw : w = 1
        · subst hw
          simp [flagItems, unpackItems, hcode, hflag]
        · simp [flagItems, hw, hitem, hflag, Ne.symm hw]
      · by_cases hw : w = 1 <;> simp [flagItems, unpackItems, hw, hf, ih]

/-- Settles O14: names are unique in a layout, so each flag is the code of its own field. -/
theorem decflagsAgreesWithUnpack : Obligations.DecflagsAgreesWithUnpack := by
  intro l lay raw hl hlen
  exact ⟨_, _, by simp only [flagsOp, hl, hlen, if_true], by simp only [unpackOp, hl, hlen, if_true],
    mem_flagItems (layoutFields_nodup lay) (be raw)⟩

/-! ### Slots that are legal -/

/-- The entry of ENCODE's `values` that a present slot `k` makes: the operand of its field, if it has one,
or an unknown name (40_codec.md R98, 30_encoding.md R77). -/
def slotEntry (t : Tables) (f? : Option Field) (k : Nat) (sl : Slot) : Key × Operand :=
  match f? with
  | some f => (.field f, slotOperand t f sl)
  | none => (.unknown k, .code sl.val.toNat)

theorem slotValues_cons_slot (t : Tables) (fs : List Field) (sl : Slot) (slots : List Slot)
    (k : Nat) : slotValues t fs (sl :: slots) k =
      if sl.present then slotEntry t fs[0]? k sl :: slotValues t fs.tail slots (k + 1)
      else slotValues t fs.tail slots (k + 1) := by
  cases fs <;> rfl

/-- ENCODE's `values` at the port are the entries of the present slots. -/
theorem mem_slotValues {t : Tables} {kv : Key × Operand} {fs : List Field} {slots : List Slot}
    {k : Nat} : kv ∈ slotValues t fs slots k ↔
      ∃ i sl, slots[i]? = some sl ∧ sl.present = true ∧ kv = slotEntry t fs[i]? (k + i) sl := by
  induction slots generalizing fs k with
  | nil => cases fs <;> simp [slotValues]
  | cons sl slots ih =>
    have htail : kv ∈ slotValues t fs.tail slots (k + 1) ↔ ∃ i sl', (sl :: slots)[i + 1]? = some sl' ∧
        sl'.present = true ∧ kv = slotEntry t fs[i + 1]? (k + (i + 1)) sl' := by
      simp [ih, Nat.add_assoc, Nat.add_comm 1]
    rw [slotValues_cons_slot, ← Nat.or_exists_add_one, ← htail]
    cases hsl : sl.present <;> simp [hsl]

/-- The operand of a field is that of its slot, where the slot is present (40_codec.md R98). -/
theorem lookup_slotValues_of_getElem {t : Tables} {fs : List Field} {slots : List Slot} {i k : Nat}
    {f : Field} {sl : Slot} (hnodup : fs.Nodup) (hf : fs[i]? = some f)
    (hsl : slots[i]? = some sl) :
    (slotValues t fs slots k).lookup (.field f) =
      if sl.present then some (slotOperand t f sl) else none := by
  cases hlookup : (slotValues t fs slots k).lookup (.field f) with
  | none =>
    have habsent : ¬ sl.present = true := by
      intro hpresent
      have hmem : (Key.field f, slotOperand t f sl) ∈ slotValues t fs slots k :=
        mem_slotValues.mpr ⟨i, sl, hsl, hpresent, by rw [hf]; rfl⟩
      simpa using List.lookup_eq_none_iff.mp hlookup _ hmem
    rw [if_neg habsent]
  | some op =>
    obtain ⟨before, after, hsplit, -⟩ := List.lookup_eq_some_iff.mp hlookup
    have hmem : (Key.field f, op) ∈ slotValues t fs slots k := by simp [hsplit]
    obtain ⟨j, sl', hsl', hpresent, hentry⟩ := mem_slotValues.mp hmem
    cases hg : fs[j]? with
    | none => simp [hg, slotEntry] at hentry
    | some g =>
      obtain ⟨rfl, rfl⟩ : f = g ∧ op = slotOperand t g sl' := by simpa [hg, slotEntry] using hentry
      have hij : i = j := (List.getElem?_inj (List.getElem?_eq_some_iff.mp hf).1 hnodup).mp
        (hf.trans hg.symm)
      subst hij
      obtain rfl : sl = sl' := Option.some.inj (hsl.symm.trans hsl')
      rw [if_pos hpresent]

/-- Every slot with no field is absent exactly when ENCODE knows every name (40_codec.md R90,
30_encoding.md R77). -/
theorem keysKnown_slotValues {t : Tables} {fs : List Field} {slots : List Slot} :
    keysKnown fs (slotValues t fs slots 0) = true ↔
      ∀ (i : Nat) (sl : Slot), slots[i]? = some sl → fs[i]? = none → sl.present = false := by
  simp only [keysKnown, List.all_eq_true, List.any_eq_true, decide_eq_true_eq]
  constructor
  · intro hknown i sl hsl hf
    by_contra hpresent
    obtain ⟨f, -, hkey⟩ := hknown _ (mem_slotValues.mpr ⟨i, sl, hsl, by simpa using hpresent, rfl⟩)
    simp [hf, slotEntry] at hkey
  · intro habsent kv hkv
    obtain ⟨i, sl, hsl, hpresent, rfl⟩ := mem_slotValues.mp hkv
    cases hf : fs[i]? with
    | none => simp [habsent i sl hsl hf] at hpresent
    | some f => exact ⟨f, List.mem_of_getElem? hf, rfl⟩

theorem checkRange_eq_ok {w c : Nat} {n : Int} :
    checkRange w n = .ok c ↔ n = c ∧ c < 2 ^ w := by
  constructor
  · intro h
    by_cases hn : 0 ≤ n ∧ n < 2 ^ w
    · obtain ⟨h0, h1⟩ := hn
      lift n to Nat using h0
      rw [checkRange_ok (Int.natCast_nonneg n) h1, Except.ok.injEq, Int.toNat_natCast] at h
      subst h
      exact ⟨rfl, by exact_mod_cast h1⟩
    · rw [checkRange_error (by omega)] at h
      cases h
  · rintro ⟨rfl, hc⟩
    exact checkRange_natCast hc

/-- What the operand of a present slot is resolved to is the code that the slot carries. -/
theorem carries_of_resolveField {t : Tables} {vals : List (Key × Operand)} {f : Field} {sl : Slot}
    {c w : Nat} (hlookup : vals.lookup (.field f) = some (slotOperand t f sl))
    (hpresent : sl.present = true) (h : resolveField t vals f w = .ok c) :
    carries t f sl c ∧ c < 2 ^ w := by
  rw [resolveField, hlookup] at h
  cases hnamed : sl.named with
  | false =>
    simp only [slotOperand, hnamed, Bool.false_eq_true, if_false, checkRange_eq_ok] at h
    exact ⟨⟨hpresent, .inl ⟨hnamed, by exact_mod_cast h.1⟩⟩, h.2⟩
  | true =>
    simp only [slotOperand, hnamed, if_true] at h
    cases hspace : fieldSpace f with
    | none => simp [hspace] at h
    | some space =>
      cases hname : optName t space sl.val with
      | none => simp [hspace, hname] at h
      | some o =>
        cases hcode : optCode t space o with
        | none => simp [hspace, hname, hcode] at h
        | some b =>
          simp only [hspace, hname, hcode, checkRange_eq_ok] at h
          exact ⟨⟨hpresent, .inr ⟨hnamed, space, o, b, hspace, hname, hcode,
            by exact_mod_cast h.1⟩⟩, h.2⟩

theorem length_layoutFields_le (lay : Layout) : (layoutFields lay).length ≤ 5 := by
  cases lay <;> decide

theorem exists_slot_of_field {lay : Layout} {i : Nat} {f : Field}
    (hf : (layoutFields lay)[i]? = some f) (p : PortInputs) : ∃ sl, p.slots[i]? = some sl := by
  have hi : i < (layoutFields lay).length := (List.getElem?_eq_some_iff.mp hf).1
  have hslots : i < p.slots.length := hi.trans_le (length_layoutFields_le lay)
  exact ⟨_, List.getElem?_eq_getElem hslots⟩

/-- Every name of `vals` is the layout's and every field of the layout resolves to a code in its range
(40_codec.md R90). -/
def valuesLegal (t : Tables) (lay : Layout) (vals : List (Key × Operand)) : Prop :=
  keysKnown (layoutFields lay) vals = true ∧
  ∀ f w, .field f w ∈ layoutItems lay → ∃ c, resolveField t vals f w = .ok c

/-- The slots are legal exactly when ENCODE's `values` at the port are (40_codec.md R90, R98). -/
theorem slotsLegal_iff {t : Tables} {lay : Layout} {p : PortInputs} :
    slotsLegal t lay p.slots ↔
      valuesLegal t lay (slotValues t (layoutFields lay) p.slots 0) := by
  have hlookup : ∀ {i : Nat} {f : Field} {sl : Slot}, (layoutFields lay)[i]? = some f →
      p.slots[i]? = some sl → (slotValues t (layoutFields lay) p.slots 0).lookup (.field f) =
        if sl.present then some (slotOperand t f sl) else none :=
    fun hf hsl => lookup_slotValues_of_getElem (layoutFields_nodup lay) hf hsl
  constructor
  · intro hlegal
    refine ⟨keysKnown_slotValues.mpr fun i sl hsl hf => ?_, fun f w hm => ?_⟩
    · simpa only [hf] using hlegal i sl hsl
    · obtain ⟨i, hf⟩ := List.mem_iff_getElem?.mp (mem_itemFields.mpr ⟨w, hm⟩)
      obtain ⟨sl, hsl⟩ := exists_slot_of_field hf p
      have hslot := hlegal i sl hsl
      rw [layoutFields, hf] at hslot
      obtain ⟨c, hcarries, hc⟩ := hslot
      have hmax := fieldMax_succ hm
      exact ⟨c, resolveField_of_carries ((hlookup hf hsl).trans (if_pos hcarries.1)) hcarries
        (by omega)⟩
  · rintro ⟨hknown, hresolves⟩ i sl hsl
    split
    next f hf =>
      obtain ⟨w, hm⟩ := mem_itemFields.mp (List.mem_of_getElem? hf)
      obtain ⟨c, hresolve⟩ := hresolves f w hm
      have hop := hlookup hf hsl
      have hpresent : sl.present = true := by
        by_contra habsent
        rw [if_neg habsent] at hop
        simp [resolveField, hop] at hresolve
      rw [if_pos hpresent] at hop
      obtain ⟨hcarries, hc⟩ := carries_of_resolveField hop hpresent hresolve
      have hmax := fieldMax_succ hm
      exact ⟨c, hcarries, by omega⟩
    next hf => exact keysKnown_slotValues.mp hknown i sl hsl hf

/-! ### ENCODE is all or nothing -/

theorem exists_assemble_of_resolves {t : Tables} {vals : List (Key × Operand)}
    {is : List LayoutItem}
    (h : ∀ f w, .field f w ∈ is → ∃ c, resolveField t vals f w = .ok c) (v : Nat) :
    ∃ u, assemble t vals is v = .ok u := by
  induction is generalizing v with
  | nil => exact ⟨v, rfl⟩
  | cons i rest ih =>
    have ih := ih fun f w hm => h f w (List.mem_cons_of_mem _ hm)
    cases i with
    | filler w => exact ih _
    | field f w =>
      obtain ⟨c, hc⟩ := h f w List.mem_cons_self
      simp only [assemble, hc]
      exact ih _

theorem encodeLayout_of_legal {t : Tables} {lay : Layout} {vals : List (Key × Operand)}
    (h : valuesLegal t lay vals) :
    ∃ raw, raw.length = layoutLen lay ∧ encodeLayout t lay vals = .ok raw := by
  obtain ⟨hknown, hresolves⟩ := h
  obtain ⟨u, hu⟩ := exists_assemble_of_resolves hresolves 0
  exact ⟨_, bytesOf_length (layoutLen lay) u, by rw [encodeLayout, if_pos hknown, hu]; rfl⟩

theorem encodeLayout_of_not_legal {t : Tables} {lay : Layout} {vals : List (Key × Operand)}
    (h : ¬ valuesLegal t lay vals) : encodeLayout t lay vals = .error .configurationError := by
  by_cases hknown : keysKnown (layoutFields lay) vals = true
  · have hfails : ∃ f w, .field f w ∈ layoutItems lay ∧
        resolveField t vals f w = .error .configurationError := by
      by_contra! hnone
      refine h ⟨hknown, fun f w hm => ?_⟩
      obtain ⟨c, -, hc⟩ | herror := resolveField_spec t vals f w
      · exact ⟨c, hc⟩
      · exact absurd herror (hnone f w hm)
    rw [encodeLayout, if_pos hknown, assemble_error hfails]
    rfl
  · rw [encodeLayout, if_neg hknown]

theorem exec_encode_of_layout {l : LayoutSel} {lay : Layout}
    (hl : layoutOfId l.bits.toNat = some lay) (s : State) :
    exec (.encode l) s = .next (s.answer ((encodeLayout s.tables lay
      (slotValues s.tables (layoutFields lay) s.port.slots 0)).map .bytes)) := by
  simp only [exec, execEncode, encodeRsp, encodeOp, portValues, hl]

/-- Settles O8: the slots are legal exactly when every name is known and every field resolves, and then the
whole buffer is assembled. -/
theorem encodeIsAllOrNothing : Obligations.EncodeIsAllOrNothing := by
  intro l s
  split
  next hl => exact exec_encode_of_no_layout hl s
  next lay hl =>
    refine ⟨fun hlegal => ?_, fun hnot => ?_⟩
    · obtain ⟨raw, hlen, hraw⟩ := encodeLayout_of_legal (slotsLegal_iff.mp hlegal)
      exact ⟨raw, hlen, by rw [exec_encode_of_layout hl, hraw]; rfl⟩
    · have herror := encodeLayout_of_not_legal (mt slotsLegal_iff.mpr hnot)
      rw [exec_encode_of_layout hl, herror]
      rfl

end Sys2Proof.Machine

/-! The statements of 41_config_tables.md: what the constraints on the open tables say of their searches,
LOOKUP and LKREFRESH, names in ENCODE, and the configuration calls. -/

namespace Sys2Proof.Machine

/-! ### The constraints on the open tables -/

/-- The constraints of `tablesWf` by name (10_state.md R27, R28; 41_config_tables.md R112, R115). -/
structure TablesLegal (t : Tables) : Prop where
  optKeysNodup : (t.optRows.map (fun r => (r.space, r.name))).Nodup
  optCodesFit : ∀ r ∈ t.optRows, r.code.toNat < 2 ^ namespaceWidth r.space
  gain1x : ⟨.gain, "1x", 0x0#8⟩ ∈ t.optRows
  it25ms : ⟨.it, "25ms", 0xC#8⟩ ∈ t.optRows
  gainNotFoo : ∀ r ∈ t.optRows, r.space = .gain → r.name ≠ "foo"
  optIndicesNodup : (t.optNames.map (fun r => (r.space, r.index))).Nodup
  refreshLength : t.refreshRows.length = 16
  refreshKeysNodup : (t.refreshRows.map (fun r => r.name)).Nodup
  refreshPairsNodup : (t.refreshRows.map (fun r => (r.itCode, r.psmCode))).Nodup
  refresh1100ms : ∃ r ∈ t.refreshRows, r.name = "1100ms"
  refreshIndicesNodup : (t.refreshNames.map (fun r => r.index)).Nodup

theorem tablesWf_iff {t : Tables} : tablesWf t = true ↔ TablesLegal t := by
  simp only [tablesWf, Bool.and_eq_true, decide_eq_true_eq, List.all_eq_true, List.any_eq_true,
    List.contains_iff_mem, beq_iff_eq, Bool.not_eq_true', Bool.and_eq_false_imp, beq_eq_false_iff_ne,
    and_assoc]
  constructor
  · rintro ⟨h1, h2, h3, h4, h5, h6, h7, h8, h9, h10, h11⟩
    exact ⟨h1, h2, h3, h4, h5, h6, h7, h8, h9, h10, h11⟩
  · rintro ⟨h1, h2, h3, h4, h5, h6, h7, h8, h9, h10, h11⟩
    exact ⟨h1, h2, h3, h4, h5, h6, h7, h8, h9, h10, h11⟩

/-! ### Searches of tables whose keys are distinct -/

/-- Where keys are distinct, the search for a key finds the one row that has it. -/
theorem find?_eq_some_iff_of_nodup {α κ : Type} {rows : List α} {key : α → κ} {hasKey : α → Bool}
    {k : κ} (hnodup : (rows.map key).Nodup) (hkey : ∀ r, hasKey r = true ↔ key r = k) (r : α) :
    rows.find? hasKey = some r ↔ r ∈ rows ∧ key r = k := by
  constructor
  · intro h
    exact ⟨List.mem_of_find?_eq_some h, (hkey r).mp (List.find?_some h)⟩
  · rintro ⟨hr, hk⟩
    obtain ⟨r', hr'⟩ := Option.isSome_iff_exists.mp
      (List.find?_isSome.mpr ⟨r, hr, (hkey r).mpr hk⟩)
    have hk' : key r' = k := (hkey r').mp (List.find?_some hr')
    rw [hr', List.inj_on_of_nodup_map hnodup (List.mem_of_find?_eq_some hr') hr (hk'.trans hk.symm)]

/-- `OPT` is the set of its rows (10_state.md R27). -/
theorem optCode_eq_some_iff {t : Tables} (h : TablesLegal t) {space : Namespace} {o : String}
    {c : Byte} : optCode t space o = some c ↔ ⟨space, o, c⟩ ∈ t.optRows := by
  have hfind := find?_eq_some_iff_of_nodup (hasKey := fun r => r.space == space && r.name == o)
    (k := (space, o)) h.optKeysNodup (by simp)
  simp only [optCode, Option.map_eq_some_iff, hfind]
  constructor
  · rintro ⟨⟨space', o', c'⟩, ⟨hr, hk⟩, rfl⟩
    cases hk
    exact hr
  · exact fun hr => ⟨_, ⟨hr, rfl⟩, rfl⟩

/-- `REFRESH` is the set of its rows (10_state.md R28). -/
theorem refreshPair_eq_some_iff {t : Tables} (h : TablesLegal t) {d : String}
    {p : BitVec 4 × BitVec 2} : refreshPair t d = some p ↔ ⟨d, p.1, p.2⟩ ∈ t.refreshRows := by
  have hfind := find?_eq_some_iff_of_nodup (hasKey := fun r => r.name == d) (k := d)
    h.refreshKeysNodup (by simp)
  simp only [refreshPair, Option.map_eq_some_iff, hfind]
  constructor
  · rintro ⟨⟨d', itCode, psmCode⟩, ⟨hr, rfl⟩, rfl⟩
    exact hr
  · exact fun hr => ⟨_, ⟨hr, rfl⟩, rfl⟩

theorem fieldMax_of_fieldSpace {f : Field} {space : Namespace} (h : fieldSpace f = some space) :
    fieldMax f + 1 = 2 ^ namespaceWidth space := by
  cases f <;> cases h <;> rfl

/-- A registered code is legal for its field (41_config_tables.md R112). -/
theorem optCode_le_fieldMax {t : Tables} (h : TablesLegal t) {f : Field} {space : Namespace}
    {o : String} {c : Byte} (hf : fieldSpace f = some space) (hc : optCode t space o = some c) :
    c.toNat ≤ fieldMax f := by
  have hlt : c.toNat < 2 ^ namespaceWidth space := h.optCodesFit _ ((optCode_eq_some_iff h).mp hc)
  have hmax := fieldMax_of_fieldSpace hf
  omega

/-- Settles O28: OPT is the set of its rows, of which the constraints say all this. -/
theorem givenOptionsHold : Obligations.GivenOptionsHold := by
  intro t hwf
  have h := tablesWf_iff.mp hwf
  refine ⟨(optCode_eq_some_iff h).mpr h.gain1x, (optCode_eq_some_iff h).mpr h.it25ms, ?_,
    fun f space o c => optCode_le_fieldMax h⟩
  rw [Option.eq_none_iff_forall_ne_some]
  intro c hc
  exact h.gainNotFoo _ ((optCode_eq_some_iff h).mp hc) rfl rfl

/-! ### LOOKUP -/

theorem lookupOp_of_registered {t : Tables} {space : Namespace} {o : String} {c : Byte}
    (h : optCode t space o = some c) : lookupOp t (some space) o = .ok c := by
  simp only [lookupOp, h]

theorem lookupOp_of_unregistered {t : Tables} {space : Namespace} {o : String}
    (h : optCode t space o = none) :
    lookupOp t (some space) o = .error .unknownOptionError := by
  simp only [lookupOp, h]

/-- `lookup` succeeds exactly for the names registered in the field's own namespace
(41_config_tables.md R110). -/
theorem lookupField_eq_ok_iff {t : Tables} {f : Field} {o : String} {c : Byte} :
    lookupField t (.field f) o = .ok c ↔
      ∃ space, fieldSpace f = some space ∧ optCode t space o = some c := by
  rw [lookupField]
  cases fieldSpace f with
  | none => simp [lookupOp]
  | some space =>
    cases h : optCode t space o with
    | none => simp [lookupOp_of_unregistered h, h]
    | some b => simp [lookupOp_of_registered h, h]

theorem lookupField_of_unregistered {t : Tables} {f : Field} {space : Namespace} {o : String}
    (hf : fieldSpace f = some space) (h : optCode t space o = none) :
    lookupField t (.field f) o = .error .unknownOptionError := by
  rw [lookupField, hf, lookupOp_of_unregistered h]

theorem lookupField_of_no_space {t : Tables} {f : Field} (hf : fieldSpace f = none) (o : String) :
    lookupField t (.field f) o = .error .unknownOptionError := by
  rw [lookupField, hf, lookupOp]

theorem fieldSpace_eq_none {f : Field} (h : f ∈ [.msb, .lsb, .intLow, .intHigh]) :
    fieldSpace f = none := by
  revert f
  decide

theorem exec_lookup (f : FieldSel) (s : State) :
    exec (.lookup f) s = .next (s.respond (responseOf (lookupRsp s.tables f s.port))) := by
  rw [exec, execLookup, State.answer_eq]

theorem exec_lookup_of_no_namespace {f : FieldSel} (hf : namespaceOfId f.bits.toNat = none)
    (s : State) : exec (.lookup f) s = .next (s.respond (.err .unknownOptionError)) := by
  simp only [exec_lookup, lookupRsp, hf, responseOf_error]

theorem exec_lookup_of_nameless {f : FieldSel} {space : Namespace} {s : State}
    (hf : namespaceOfId f.bits.toNat = some space)
    (hname : optName s.tables space s.port.slot0.val = none) :
    exec (.lookup f) s = .next (s.respond (.err .unknownOptionError)) := by
  simp only [exec_lookup, lookupRsp, hf, hname, responseOf_error]

/-- At the port LOOKUP is `lookupOp` of the name that the index stands for (41_config_tables.md R110). -/
theorem exec_lookup_of_name {f : FieldSel} {space : Namespace} {o : String} {s : State}
    (hf : namespaceOfId f.bits.toNat = some space)
    (hname : optName s.tables space s.port.slot0.val = some o) :
    exec (.lookup f) s = .next (s.respond (responseOf
      ((lookupOp s.tables (some space) o).map (fun c => .fields (fieldOuts [c.toNat]))))) := by
  simp only [exec_lookup, lookupRsp, hf, hname]

theorem fieldOuts_byte (c : Byte) : fieldOuts [c.toNat] = ⟨some c, none, none, none, none⟩ := by
  simp [fieldOuts]

/-- Settles O26: the response follows the three searches of LOOKUP, of the identifier, of the index and of
the name. -/
theorem lookupAnswersItsNamespace : Obligations.LookupAnswersItsNamespace := by
  intro f s
  refine ⟨fun hlt => exec_lookup_of_no_namespace (namespaceOfId_eq_none hlt) s,
    fun space hspace => ⟨fun o c hname hcode => ?_, fun o hname hcode => ?_,
      exec_lookup_of_nameless hspace⟩,
    fun t g o => ⟨fun space c hspace hcode => lookupField_eq_ok_iff.mpr ⟨space, hspace, hcode⟩,
      fun space => lookupField_of_unregistered,
      fun hg => lookupField_of_no_space (fieldSpace_eq_none hg) o, fun _ => rfl⟩⟩
  · rw [exec_lookup_of_name hspace hname, lookupOp_of_registered hcode, Except.map, fieldOuts_byte,
      responseOf_ok]
  · rw [exec_lookup_of_name hspace hname, lookupOp_of_unregistered hcode, Except.map,
      responseOf_error]

/-! ### LKREFRESH -/

theorem exec_lkrefresh (x : BitVec 4) (s : State) :
    exec (.lkrefresh x) s = .next (s.respond (responseOf (lkrefreshRsp s.tables s.port))) := by
  rw [exec, execLkrefresh, State.answer_eq]

theorem lkrefreshRsp_of_pair {t : Tables} {p : PortInputs} {d : String}
    {pair : BitVec 4 × BitVec 2} (hname : refreshName t p.slot0.val = some d)
    (hpair : refreshPair t d = some pair) :
    lkrefreshRsp t p =
      .ok (.fields ⟨some (pair.1.setWidth 8), some (pair.2.setWidth 8), none, none, none⟩) := by
  simp [lkrefreshRsp, hname, refreshOp, hpair, Except.map, fieldOuts]

theorem lkrefreshRsp_of_unregistered {t : Tables} {p : PortInputs} {d : String}
    (hname : refreshName t p.slot0.val = some d) (hpair : refreshPair t d = none) :
    lkrefreshRsp t p = .error .unsupportedRefreshTimeError := by
  simp only [lkrefreshRsp, hname, refreshOp, hpair, Except.map]

theorem lkrefreshRsp_of_nameless {t : Tables} {p : PortInputs}
    (hname : refreshName t p.slot0.val = none) :
    lkrefreshRsp t p = .error .unsupportedRefreshTimeError := by
  simp only [lkrefreshRsp, hname]

/-- The durations that LKREFRESH answers are the names of the table's rows. -/
theorem mem_refreshRows_name_iff {t : Tables} (h : TablesLegal t) (d : String) :
    d ∈ t.refreshRows.map (fun r => r.name) ↔ ∃ p, refreshPair t d = some p := by
  simp only [List.mem_map, refreshPair_eq_some_iff h]
  constructor
  · rintro ⟨r, hr, rfl⟩
    exact ⟨(r.itCode, r.psmCode), hr⟩
  · rintro ⟨p, hr⟩
    exact ⟨_, hr, rfl⟩

/-- Pairs are pairwise distinct (41_config_tables.md R115). -/
theorem refreshPair_injective {t : Tables} (h : TablesLegal t) {d d' : String}
    {p : BitVec 4 × BitVec 2} (hd : refreshPair t d = some p) (hd' : refreshPair t d' = some p) :
    d = d' := by
  rw [refreshPair_eq_some_iff h] at hd hd'
  exact congrArg RefreshRow.name (List.inj_on_of_nodup_map h.refreshPairsNodup hd hd' rfl)

/-- Settles O31: the response follows the two searches of LKREFRESH, of the index and of the duration; the
durations are the names of REFRESH's rows. -/
theorem lkrefreshAnswersThePair : Obligations.LkrefreshAnswersThePair := by
  refine ⟨fun x s => ⟨fun d p hname hpair => ?_, fun d hname hpair => ?_, fun hname => ?_⟩,
    fun t hwf => ?_⟩
  · rw [exec_lkrefresh, lkrefreshRsp_of_pair hname hpair, responseOf_ok]
  · rw [exec_lkrefresh, lkrefreshRsp_of_unregistered hname hpair, responseOf_error]
  · rw [exec_lkrefresh, lkrefreshRsp_of_nameless hname, responseOf_error]
  · have h := tablesWf_iff.mp hwf
    refine ⟨(mem_refreshRows_name_iff h _).mp (List.mem_map.mpr h.refresh1100ms),
      ⟨t.refreshRows.map (fun r => r.name), ?_, h.refreshKeysNodup, mem_refreshRows_name_iff h⟩,
      fun d d' p => refreshPair_injective h⟩
    rw [List.length_map, h.refreshLength]

/-! ### Names in ENCODE -/

theorem encodeOp_of_layout {l : Nat} {lay : Layout} (hl : layoutOfId l = some lay) (t : Tables)
    (vals : List (Key × Operand)) : encodeOp t l vals = encodeLayout t lay vals := by
  simp only [encodeOp, hl]

/-- A registered name resolves to the code that its namespace gives it, which is then checked as any code
is (40_codec.md R92). -/
theorem resolveField_of_registered {t : Tables} {vals : List (Key × Operand)} {f : Field}
    {space : Namespace} {o : String} {c : Byte} (hop : vals.lookup (.field f) = some (.named o))
    (hf : fieldSpace f = some space) (hcode : optCode t space o = some c) (w : Nat) :
    resolveField t vals f w = checkRange w c.toNat := by
  simp only [resolveField, hop, hf, hcode]

theorem resolveField_of_unregistered {t : Tables} {vals : List (Key × Operand)} {f : Field}
    {space : Namespace} {o : String} (hop : vals.lookup (.field f) = some (.named o))
    (hf : fieldSpace f = some space) (hcode : optCode t space o = none) (w : Nat) :
    resolveField t vals f w = .error .configurationError := by
  simp only [resolveField, hop, hf, hcode]

/-- Settles O30: the name makes LOOKUP fail, and its field is one that ENCODE cannot resolve. -/
theorem unknownNameIsReportedPerOperation : Obligations.UnknownNameIsReportedPerOperation := by
  intro t l lay f space o vals hl hf hspace hcode hop
  refine ⟨lookupField_of_unregistered hspace hcode, ?_⟩
  rw [encodeOp_of_layout hl]
  refine encodeLayout_of_not_legal ?_
  rintro ⟨-, hresolves⟩
  obtain ⟨w, hm⟩ := mem_itemFields.mp hf
  obtain ⟨c, hc⟩ := hresolves f w hm
  rw [resolveField_of_unregistered hop hspace hcode] at hc
  cases hc

/-- Operands that resolve to the codes `c` give the bytes of those codes, however each is written
(40_codec.md R90). -/
theorem encodeOp_of_resolves {t : Tables} {l : Nat} {lay : Layout} {vals : List (Key × Operand)}
    {c : Field → Nat} (hl : layoutOfId l = some lay)
    (hknown : keysKnown (layoutFields lay) vals = true)
    (hresolve : ∀ f w, .field f w ∈ layoutItems lay → resolveField t vals f w = .ok (c f)) :
    encodeOp t l vals = .ok (bytesOf (layoutLen lay) (assembled c (layoutItems lay))) := by
  rw [encodeOp_of_layout hl, encodeLayout, if_pos hknown, assemble_ok hresolve, Nat.zero_mul,
    Nat.zero_add]
  rfl

/-- Codes for a layout's fields but the field `f`, whose operand is the name `o`. -/
def namedAt (f : Field) (o : String) (c : Field → Nat) (g : Field) : Operand :=
  if g = f then .named o else .code (c g)

theorem lookup_operands {fs : List Field} {f : Field} (op : Field → Operand) (h : f ∈ fs) :
    (fs.map (fun g => (Key.field g, op g))).lookup (.field f) = some (op f) := by
  induction fs with
  | nil => exact absurd h List.not_mem_nil
  | cons g fs ih =>
    by_cases hg : f = g
    · simp [hg]
    · have hne : (Key.field f == .field g) = false := by simpa using hg
      simpa [List.lookup_cons, hne] using ih (List.mem_of_ne_of_mem hg h)

/-- The name `o` and the codes `c` resolve to `c`, where `o` is registered with the code of its field. -/
theorem resolveField_namedAt {t : Tables} {fs : List Field} {f g : Field} {space : Namespace}
    {o : String} {b : Byte} {c : Field → Nat} {w : Nat} (hspace : fieldSpace f = some space)
    (hcode : optCode t space o = some b) (hcf : c f = b.toNat) (hg : g ∈ fs) (hfit : c g < 2 ^ w) :
    resolveField t (fs.map (fun g => (.field g, namedAt f o c g))) g w = .ok (c g) := by
  have hop := lookup_operands (namedAt f o c) hg
  rw [namedAt] at hop
  split at hop
  next heq =>
    subst heq
    rw [resolveField_of_registered hop hspace hcode, ← hcf, checkRange_natCast hfit]
  next =>
    simp only [resolveField, hop, checkRange_natCast hfit]

/-- Settles O29: a name and its code resolve to the same code, which is in its field's range. -/
theorem lookupThenEncode : Obligations.LookupThenEncode := by
  intro t l lay f o b c hwf hl hf hlookup hle hcf
  obtain ⟨space, hspace, hcode⟩ := lookupField_eq_ok_iff.mp hlookup
  have hlegal : ∀ g ∈ layoutFields lay, c g ≤ fieldMax g := by
    intro g hg
    by_cases heq : g = f
    · rw [heq, hcf]
      exact optCode_le_fieldMax (tablesWf_iff.mp hwf) hspace hcode
    · exact hle g hg heq
  have hfit := codesFit_of_le_fieldMax hlegal
  refine ⟨_, encodeOp_of_resolves hl (by simp [keysKnown]) fun g w hm => ?_,
    encodeOp_natCodes hl hfit t, unpackOp_bytesOf_assembled hl hfit⟩
  exact resolveField_namedAt hspace hcode hcf (mem_itemFields.mpr ⟨w, hm⟩) (hfit g w hm)

/-! ### The configuration calls -/

/-- What ENCODE gives is a whole register (40_codec.md R90). -/
theorem length_of_encodeOp {t : Tables} {l : Nat} {lay : Layout} {vals : List (Key × Operand)}
    {raw : List Byte} (hl : layoutOfId l = some lay) (h : encodeOp t l vals = .ok raw) :
    raw.length = layoutLen lay := by
  rw [encodeOp_of_layout hl] at h
  by_cases hlegal : valuesLegal t lay vals
  · obtain ⟨raw', hlen, hraw'⟩ := encodeLayout_of_legal hlegal
    obtain rfl : raw' = raw := Except.ok.inj (hraw'.symm.trans h)
    exact hlen
  · rw [encodeLayout_of_not_legal hlegal] at h
    cases h

/-- Encoding a layout and writing its register: ENCODE's error with no access, or one write of the whole
buffer (43_environment_ops.md R157). -/
theorem encodeAndWrite_whole {l : Nat} {lay : Layout} {a : BusAddr} (hl : layoutOfId l = some lay)
    (ha : registerLength a = some (layoutLen lay)) (s : State) (vals : List (Key × Operand)) :
    (∀ e, encodeOp s.tables l vals = .error e →
      s.encodeAndWrite l vals a = .next (s.respond (.err e))) ∧
    (∀ raw, encodeOp s.tables l vals = .ok raw → registerLength a = some raw.length ∧
      (s.scope = false → s.encodeAndWrite l vals a = .next (afterWrite s a raw))) := by
  refine ⟨fun e he => ?_, fun raw hraw => ?_⟩
  · simp only [State.encodeAndWrite, he, State.raise_eq]
  · have hlen : registerLength a = some raw.length := by rw [ha, length_of_encodeOp hl hraw]
    exact ⟨hlen, fun hs => by simp only [State.encodeAndWrite, hraw, busWrite_eq_afterWrite hs hlen]⟩

/-- Settles O52: each call encodes the layout of the register that it writes. -/
theorem configurationCallsWriteOnlyWholeBuffers :
    Obligations.ConfigurationCallsWriteOnlyWholeBuffers := by
  refine ⟨?_, fun s b hs => busWrite_eq_afterWrite hs rfl⟩
  rintro s c l vals a (⟨rfl, rfl, rfl⟩ | ⟨rfl, rfl, rfl⟩ | ⟨m, b, rfl, rfl, rfl, rfl⟩ |
    ⟨m, b, rfl, rfl, rfl, rfl⟩)
  · exact encodeAndWrite_whole (lay := .alsConf) rfl rfl s vals
  · exact encodeAndWrite_whole (lay := .psm) rfl rfl s vals
  · exact encodeAndWrite_whole (lay := .alsWh) rfl rfl s _
  · exact encodeAndWrite_whole (lay := .alsWl) rfl rfl s _

end Sys2Proof.Machine

/-! The statements of 42_measurement_decoder.md: two's-complement reconstruction, the three integer decoders at
the port, the decoders with a scale, and the two count calls. -/

namespace Sys2Proof.Machine

/-! ### Two's-complement reconstruction -/

theorem sext_of_sign_set {n v : Nat} (h : 2 ^ (n - 1) ≤ v) : sext n v = (v : Int) - 2 ^ n :=
  if_pos h

theorem sext_of_sign_clear {n v : Nat} (h : v < 2 ^ (n - 1)) : sext n v = v :=
  if_neg (Nat.not_le.mpr h)

theorem sext_sub_emod (n v : Nat) : (sext n v - v) % 2 ^ n = 0 := by
  rcases Nat.lt_or_ge v (2 ^ (n - 1)) with h | h
  · rw [sext_of_sign_clear h, Int.sub_self, Int.zero_emod]
  · rw [sext_of_sign_set h, sub_sub_cancel_left, Int.neg_emod_self]

/-- A value that fits is the unsigned value of a word, of which `sext` takes the two's-complement integer. -/
theorem exists_word_of_lt {w v : Nat} (h : v < 2 ^ (w + 1)) :
    ∃ x : BitVec (w + 1), v = x.toNat ∧ sext (w + 1) v = x.toInt :=
  ⟨BitVec.ofNatLT v h, rfl, sext_toNat (BitVec.ofNatLT v h)⟩

theorem sext_range {w v : Nat} (h : v < 2 ^ (w + 1)) :
    -2 ^ w ≤ sext (w + 1) v ∧ sext (w + 1) v ≤ 2 ^ w - 1 := by
  obtain ⟨x, -, hx⟩ := exists_word_of_lt h
  rw [hx]
  exact ⟨x.le_toInt, Int.le_sub_one_of_lt x.toInt_lt⟩

theorem sext_injective {w v u : Nat} (hv : v < 2 ^ (w + 1)) (hu : u < 2 ^ (w + 1))
    (h : sext (w + 1) v = sext (w + 1) u) : v = u := by
  obtain ⟨x, rfl, hx⟩ := exists_word_of_lt hv
  obtain ⟨y, rfl, hy⟩ := exists_word_of_lt hu
  rw [hx, hy, BitVec.toInt_inj] at h
  rw [h]

theorem sext_surjective {w : Nat} {i : Int} (hlo : -2 ^ w ≤ i) (hhi : i < 2 ^ w) :
    ∃ v, v < 2 ^ (w + 1) ∧ sext (w + 1) v = i :=
  ⟨(BitVec.ofInt (w + 1) i).toNat, BitVec.isLt _,
    (sext_toNat _).trans (BitVec.toInt_ofInt_eq_self w.succ_pos hlo hhi)⟩

theorem sext_most_negative (w : Nat) : sext (w + 1) (2 ^ w) = -2 ^ w := by
  have hset : sext (w + 1) (2 ^ w) = ((2 ^ w : Nat) : Int) - 2 ^ (w + 1) := sext_of_sign_set le_rfl
  rw [hset, Nat.cast_pow, Nat.cast_ofNat, pow_succ]
  omega

theorem sext_most_positive (w : Nat) : sext (w + 1) (2 ^ w - 1) = 2 ^ w - 1 := by
  have hpos : 1 ≤ 2 ^ w := Nat.one_le_two_pow
  have hclear : sext (w + 1) (2 ^ w - 1) = ((2 ^ w - 1 : Nat) : Int) :=
    sext_of_sign_clear (Nat.sub_lt hpos Nat.one_pos)
  rw [hclear, Nat.cast_sub hpos, Nat.cast_pow, Nat.cast_ofNat, Nat.cast_one]

/-- Settles O17, at every width: `sext` is the two's-complement integer of a word, a bijection. -/
theorem signLaw : Obligations.SignLaw := by
  intro n hn
  obtain ⟨w, rfl⟩ : ∃ w, n = w + 1 := by obtain rfl | rfl := hn <;> exact ⟨_, rfl⟩
  refine ⟨fun v hv => ?_, fun v u hv hu => sext_injective hv hu, fun i => sext_surjective,
    sext_most_negative w, sext_most_positive w⟩
  obtain ⟨hlo, hhi⟩ := sext_range hv
  exact ⟨sext_of_sign_set, sext_of_sign_clear, hlo, hhi, sext_sub_emod _ v⟩

/-! ### The bytes of the integer decoders -/

theorem decu16Op_bytes (b0 b1 : Byte) : decu16Op [b0, b1] = .ok (b0 ++ b1).toNat := by
  rw [decu16Op, toNat_append_byte]

theorem decp24Op_of_length_ne {raw : List Byte} (h : raw.length ≠ 3) :
    decp24Op raw = .error .protocolError := by
  unfold decp24Op
  split
  · exact absurd rfl h
  · rfl

/-- Where DECP24 answers, it is the integer of three bytes (42_measurement_decoder.md R125). -/
theorem bytes_of_decp24Op {raw : List Byte} {i : Int} (h : decp24Op raw = .ok i) :
    ∃ b0 b1 b2, raw = [b0, b1, b2] ∧ i = (b0 ++ b1 ++ b2).toInt := by
  by_cases hlen : raw.length = 3
  · obtain ⟨b0, b1, b2, rfl⟩ := List.length_eq_three.mp hlen
    exact ⟨b0, b1, b2, rfl, Except.ok.inj (h.symm.trans (decp24Op_bytes b0 b1 b2))⟩
  · rw [decp24Op_of_length_ne hlen] at h
    cases h

theorem dect16Op_of_length_ne {raw : List Byte} (h : raw.length ≠ 2) :
    dect16Op raw = .error .protocolError := by
  unfold dect16Op
  split
  · exact absurd rfl h
  · rfl

/-- Where DECT16 answers, it is the integer of two bytes (42_measurement_decoder.md R127). -/
theorem bytes_of_dect16Op {raw : List Byte} {i : Int} (h : dect16Op raw = .ok i) :
    ∃ b0 b1, raw = [b0, b1] ∧ i = (b0 ++ b1).toInt := by
  by_cases hlen : raw.length = 2
  · obtain ⟨b0, b1, rfl⟩ := List.length_eq_two.mp hlen
    exact ⟨b0, b1, rfl, Except.ok.inj (h.symm.trans (dect16Op_bytes b0 b1))⟩
  · rw [dect16Op_of_length_ne hlen] at h
    cases h

theorem decu16Op_of_length_ne {raw : List Byte} (h : raw.length ≠ 2) :
    decu16Op raw = .error .protocolError := by
  unfold decu16Op
  split
  · exact absurd rfl h
  · rfl

/-- Where DECU16 answers, it is the count of two bytes (42_measurement_decoder.md R128). -/
theorem bytes_of_decu16Op {raw : List Byte} {n : Nat} (h : decu16Op raw = .ok n) :
    ∃ b0 b1, raw = [b0, b1] ∧ n = (b0 ++ b1).toNat := by
  by_cases hlen : raw.length = 2
  · obtain ⟨b0, b1, rfl⟩ := List.length_eq_two.mp hlen
    exact ⟨b0, b1, rfl, Except.ok.inj (h.symm.trans (decu16Op_bytes b0 b1))⟩
  · rw [decu16Op_of_length_ne hlen] at h
    cases h

/-! ### The integer decoders at the port -/

theorem exec_decp24 (x : BitVec 4) (s : State) : exec (.decp24 x) s =
    .next (s.respond (responseOf ((decp24Op s.port.raw).map (fun i => .res (tc32 i))))) := by
  rw [exec, execDecp24, State.answer_eq, decp24Rsp]

theorem exec_dect16 (x : BitVec 4) (s : State) : exec (.dect16 x) s =
    .next (s.respond (responseOf ((dect16Op s.port.raw).map (fun i => .res (tc32 i))))) := by
  rw [exec, execDect16, State.answer_eq, dect16Rsp]

theorem exec_decu16 (x : BitVec 4) (s : State) : exec (.decu16 x) s =
    .next (s.respond (responseOf ((decu16Op s.port.raw).map (fun n => .res (BitVec.ofNat 32 n))))) := by
  rw [exec, execDecu16, State.answer_eq, decu16Rsp]

/-- Settles O18: the 32-bit pattern of a word's signed integer is the word's sign extension. -/
theorem decp24SignExtends : Obligations.Decp24SignExtends := by
  intro s x b0 b1 b2 hraw
  rw [exec_decp24, hraw, decp24Op_bytes]
  rfl

/-- Settles O19: the 32-bit pattern of a word's signed integer is the word's sign extension. -/
theorem dect16SignExtends : Obligations.Dect16SignExtends := by
  intro s x b0 b1 hraw
  rw [exec_dect16, hraw, dect16Op_bytes]
  rfl

/-- Settles O20: the 32-bit pattern of a word's count is the word with zeros before it. -/
theorem decu16ZeroExtends : Obligations.Decu16ZeroExtends := by
  intro s x b0 b1 hraw
  rw [exec_decu16, hraw, decu16Op_bytes, ← BitVec.ofNat_toNat]
  rfl

/-- Read back as `res` below `2^31` and `res - 2^32` above, the sign extension of a word is the word's
integer (42_measurement_decoder.md R132). -/
theorem toInt_eq_readBack {w : Nat} (v : BitVec w) (hw : w ≤ 32) :
    v.toInt = if (v.signExtend 32).toNat < 2 ^ 31 then ((v.signExtend 32).toNat : Int)
      else ((v.signExtend 32).toNat : Int) - 2 ^ 32 := by
  rw [← BitVec.toInt_signExtend_of_le hw, BitVec.toInt_eq_toNat_cond]
  split_ifs <;> omega

/-- Settles O21: the port's result is the extension of the decoded word, which keeps its integer. -/
theorem portResultsReadBack : Obligations.PortResultsReadBack := by
  refine ⟨fun s x i hi => ?_, fun s x i hi => ?_, fun s x n hn => ?_, ⟨decp24Op_bytes _ _ _, by decide⟩,
    ⟨dect16Op_bytes _ _, by decide⟩⟩
  · obtain ⟨b0, b1, b2, hraw, rfl⟩ := bytes_of_decp24Op hi
    exact ⟨_, decp24SignExtends s x b0 b1 b2 hraw, toInt_eq_readBack _ (by decide)⟩
  · obtain ⟨b0, b1, hraw, rfl⟩ := bytes_of_dect16Op hi
    exact ⟨_, dect16SignExtends s x b0 b1 hraw, toInt_eq_readBack _ (by decide)⟩
  · obtain ⟨b0, b1, hraw, rfl⟩ := bytes_of_decu16Op hn
    exact ⟨_, decu16ZeroExtends s x b0 b1 hraw, BitVec.toNat_setWidth_of_le (by decide)⟩

/-! ### Byte counts -/

theorem unpackOp_of_length_ne {l : Nat} {lay : Layout} {raw : List Byte}
    (hl : layoutOfId l = some lay) (h : raw.length ≠ layoutLen lay) :
    unpackOp l raw = .error .protocolError := by
  simp only [unpackOp, hl, if_neg h]

theorem flagsOp_of_length_ne {l : Nat} {lay : Layout} {raw : List Byte}
    (hl : layoutOfId l = some lay) (h : raw.length ≠ layoutLen lay) :
    flagsOp l raw = .error .protocolError := by
  simp only [flagsOp, hl, if_neg h]

/-- Settles O22: each operation's function is ProtocolError there, and the port answers it. -/
theorem wrongByteCountIsProtocolError : Obligations.WrongByteCountIsProtocolError := by
  refine fun s => ⟨fun x h => ?_, fun x h => ?_, fun x h => ?_, fun l lay hl h => ⟨?_, ?_⟩⟩
  · rw [exec_decp24, decp24Op_of_length_ne h]
    rfl
  · rw [exec_dect16, dect16Op_of_length_ne h]
    rfl
  · rw [exec_decu16, decu16Op_of_length_ne h]
    rfl
  · rw [exec, execUnpack, unpackRsp, unpackOp_of_length_ne hl h]
    rfl
  · rw [exec, execDecflags, decflagsRsp, flagsOp_of_length_ne hl h]
    rfl

/-! ### The decoders with a scale -/

/-- Where the scale is in the domain, the value is the exact quotient, rounded where `round` is given
(42_measurement_decoder.md R126, R131). -/
theorem decodePressure_of_one_le {scale : Int} (h : 1 ≤ scale) (raw : List Byte) (round : Option Int) :
    decodePressure raw scale round =
      .next ((decp24Op raw).map (fun i : Int => rounded round ((i : Rat) / scale))) :=
  if_neg (by omega)

theorem decodeTemperature_of_one_le {scale : Int} (h : 1 ≤ scale) (raw : List Byte)
    (round : Option Int) :
    decodeTemperature raw scale round =
      .next ((dect16Op raw).map (fun i : Int => rounded round ((i : Rat) / scale))) :=
  if_neg (by omega)

/-- Reading an integer as a rational first, and then going on with it, is one map. -/
theorem map_bind_cast (o : Except Error Int) (f : Rat → Rat) :
    Except.map f (do let i ← o; pure (i : Rat)) = o.map (fun i : Int => f i) := by
  cases o <;> rfl

/-- Settles O24: `rounded` is the quotient itself without `round` and ROUND_FN of it with it. -/
theorem scaledDecodersAreExact : Obligations.ScaledDecodersAreExact := by
  refine ⟨fun raw scale h => ?_, fun raw scale round h => ⟨if_pos h, if_pos h⟩, ?_, ?_⟩
  · simp only [map_bind_cast]
    exact ⟨decodePressure_of_one_le h raw none, decodeTemperature_of_one_le h raw none,
      fun places => ⟨decodePressure_of_one_le h raw (some places),
        decodeTemperature_of_one_le h raw (some places)⟩⟩
  · have hint : (0xFF#8 ++ 0x00#8 ++ 0x00#8).toInt = -65536 := rfl
    rw [decodePressure_bytes, hint, rounded]
    norm_num
  · have hint : (0x80#8 ++ 0x00#8).toInt = -32768 := rfl
    rw [decodeTemperature_bytes, hint, rounded]
    norm_num

theorem readingFloat_default (scale : Int) (q : Rat) : readingFloat scale scale none q = q :=
  if_pos ⟨rfl, rfl⟩

theorem readingFloat_of_scale_ne {default scale : Int} (h : scale ≠ default) (round : Option Int)
    (q : Rat) : readingFloat default scale round q = Config.floatFmt q :=
  if_neg fun hscale => h hscale.1

theorem exists_of_next_map {o : Except Error Int} {f : Int → Rat} {q : Rat}
    (h : (.next (o.map f) : Host.Outcome (Except Error Rat) Fault Refusal) = .next (.ok q)) :
    ∃ i, o = .ok i ∧ f i = q := by
  cases o with
  | error e => cases h
  | ok i => cases h; exact ⟨i, rfl, rfl⟩

/-- An unrounded pressure value at the default scale is a 24-bit integer over `2^12`. -/
theorem decodePressure_default {raw : List Byte} {q : Rat}
    (h : decodePressure raw 4096 none = .next (.ok q)) :
    ∃ i : Int, -2 ^ 23 ≤ i ∧ i ≤ 2 ^ 23 - 1 ∧ q = i / 2 ^ 12 := by
  rw [decodePressure_of_one_le (by decide)] at h
  obtain ⟨i, hop, rfl⟩ := exists_of_next_map h
  obtain ⟨b0, b1, b2, -, rfl⟩ := bytes_of_decp24Op hop
  exact ⟨(b0 ++ b1 ++ b2).toInt, BitVec.le_toInt _, Int.le_sub_one_of_lt BitVec.toInt_lt,
    by norm_num [rounded]⟩

/-- An unrounded temperature value at the default scale is a 16-bit integer over `2^8`. -/
theorem decodeTemperature_default {raw : List Byte} {q : Rat}
    (h : decodeTemperature raw 256 none = .next (.ok q)) :
    ∃ i : Int, -2 ^ 15 ≤ i ∧ i ≤ 2 ^ 15 - 1 ∧ q = i / 2 ^ 8 := by
  rw [decodeTemperature_of_one_le (by decide)] at h
  obtain ⟨i, hop, rfl⟩ := exists_of_next_map h
  obtain ⟨b0, b1, -, rfl⟩ := bytes_of_dect16Op hop
  exact ⟨(b0 ++ b1).toInt, BitVec.le_toInt _, Int.le_sub_one_of_lt BitVec.toInt_lt,
    by norm_num [rounded]⟩

/-- Settles O25: the value is a word's integer over the scale, and `readingFloat` leaves it as it is at the
default scale alone. -/
theorem defaultScaleFloatsAreExact : Obligations.DefaultScaleFloatsAreExact :=
  ⟨fun _ q h => ⟨decodePressure_default h, readingFloat_default 4096 q⟩,
    fun _ q h => ⟨decodeTemperature_default h, readingFloat_default 256 q⟩,
    fun _ _ round q h => readingFloat_of_scale_ne h round q⟩

/-! ### The count calls -/

/-- The call `c` reads the two bytes of the register `a` with the retry policy and answers `result` of
their unsigned count (43_environment_ops.md R155, R156). -/
structure CountsAt (c : Call) (a : BusAddr) (result : Nat → Result) : Prop where
  length : registerLength a = some 2
  run : ∀ s, runCall c s = s.ifAttempts (s.unlessScope (.next
    (s.readInTurns a 2 c (fun raw => (decu16Op raw).map result))))

theorem countsAt_getAmbientLux (r : BitVec 2) : CountsAt (.getAmbientLux r) (alsReg 0x04#8)
    (fun n => .value (toluxOp n r) (toluxFloat n r)) :=
  ⟨rfl, fun _ => rfl⟩

theorem countsAt_getWhiteCount : CountsAt .getWhiteCount (alsReg 0x05#8) .count :=
  ⟨rfl, fun _ => rfl⟩

section CountCalls

variable {c : Call} {a : BusAddr} {result : Nat → Result} {s : State} {args : RetryArgs}
  {rest : List Item} (hc : CountsAt c a result) (hp : s.pending = .call args c :: rest)
  (hs : s.scope = false) (hturns : s.turns = []) (hattempts : 1 ≤ args.maxAttempts)

include hc hp hs hturns hattempts

/-- With no other caller in between, a count call is the read with retry and the decode. -/
theorem step_countCall {o : Except Error (List Byte)} {t : State}
    (hread : readWithRetry a 2 (s.serving args rest) = (o, t)) :
    step s = .next (t.respond (responseOf (o.bind (fun raw => (decu16Op raw).map result)))) := by
  rw [step_call hp, hc.run, ifAttempts_of_pos (s := s.serving args rest) hattempts,
    unlessScope_released (s := s.serving args rest) hs,
    readInTurns_alone (s := s.serving args rest) hturns, hread, State.answer_eq]

/-- For every script and every signal: the read changes nothing but the environment's records, its error is
the answer, and what it gives as bytes has the length that DECU16 takes. -/
theorem step_countCall_outcome :
    ∃ o t resp, readWithRetry a 2 (s.serving args rest) = (o, t) ∧
      step s = .next { t with port := PortInputs.idle, responses := s.responses ++ [resp] } ∧
      t.pending = rest ∧ t.responses = s.responses ∧ t.scope = false ∧ t.tables = s.tables ∧
      ((∃ e, o = .error e ∧ resp = .err e) ∨
        ∃ b0 b1, o = .ok [b0, b1] ∧ resp = .ok (result (b0 ++ b1).toNat)) := by
  obtain ⟨hreads, hlen⟩ := readWithRetry_spec a 2 (s.serving args rest)
  rcases hread : readWithRetry a 2 (s.serving args rest) with ⟨o, t⟩
  rw [hread] at hreads hlen
  have hstep := step_countCall hc hp hs hturns hattempts hread
  rw [State.respond, hreads.responses] at hstep
  refine ⟨o, t, _, rfl, hstep, hreads.pending, hreads.responses, hreads.scope.trans hs, hreads.tables, ?_⟩
  cases o with
  | error e => exact .inl ⟨e, rfl, rfl⟩
  | ok raw =>
    obtain ⟨b0, b1, rfl⟩ := List.length_eq_two.mp (hlen raw rfl)
    exact .inr ⟨b0, b1, rfl, by rw [Except.bind, decu16Op_bytes]; rfl⟩

/-- After `k` transient failures below the bound, with no signal, the word that follows is the answer. -/
theorem step_countCall_failThen {k : Nat} {b0 b1 : Byte} {more : List Answer}
    (hcancel : args.cancelIn = none) (hk : k + 1 ≤ args.maxAttempts)
    (hscript : s.script = failThen k [b0, b1] ++ more) :
    ∃ t, step s = .next t ∧ t.pending = rest ∧ t.script = more ∧
      t.responses = s.responses ++ [.ok (result (b0 ++ b1).toNat)] ∧
      t.bus = s.bus ++ failThenTrace a 2 k ∧ t.log = s.log ++ List.replicate k a := by
  have hread := readWithRetry_failThen (s := s.serving args rest) hc.length (raw := [b0, b1]) rfl hk
    (fun m hm => nomatch hcancel.symm.trans hm) hscript
  refine ⟨_, step_countCall hc hp hs hturns hattempts hread, rfl, rfl, ?_, rfl, rfl⟩
  rw [Except.bind, decu16Op_bytes]
  rfl

end CountCalls

/-- Settles O51: both calls read two bytes with retry and decode them; they differ in the register and in
what they answer of the count. -/
theorem countCallsReadAndDecode : Obligations.CountCallsReadAndDecode :=
  fun _ _ _ hs hturns hattempts =>
    ⟨fun r hp => ⟨step_countCall_outcome (countsAt_getAmbientLux r) hp hs hturns hattempts,
      fun _ _ _ _ => step_countCall_failThen (countsAt_getAmbientLux r) hp hs hturns hattempts⟩,
    fun hp => ⟨step_countCall_outcome countsAt_getWhiteCount hp hs hturns hattempts,
      fun _ _ _ _ => step_countCall_failThen countsAt_getWhiteCount hp hs hturns hattempts⟩⟩

end Sys2Proof.Machine

/-! The statements of 43_environment_ops.md: how the retry policy counts and ends, single-attempt writes, and
composite reads in their scope. -/

namespace Sys2Proof.Machine

/-! ### How a read with the retry policy ends -/

/-- `k` transient failures and then an answer that is no bus error, within the bound and before the signal:
that answer ends the read (43_environment_ops.md R147). -/
theorem readWithRetry_answer {a : BusAddr} {n k : Nat} {s : State} {ans : Answer} {more : List Answer}
    (hlen : registerLength a = some n) (hans : (readEnd n ans).1 ≠ .error .busError)
    (hattempts : k + 1 ≤ s.retry.maxAttempts)
    (hcancel : ∀ m, s.retry.cancelIn = some m → k + 1 ≤ m)
    (hscript : s.script = List.replicate k Answer.busError ++ ans :: more) :
    readWithRetry a n s =
      ((readEnd n ans).1, ((s.afterFailures a n k more).tick).event (.read a n (readEnd n ans).2)) := by
  obtain ⟨d, hd⟩ := Nat.exists_eq_add_of_le hattempts
  have hfailures := retryLoop_failures hlen (fun m hm => (Nat.le_succ k).trans (hcancel m hm)) hscript
    (d + 1)
  have hlast := readRegister_of_script (s := (s.afterFailures a n k (ans :: more)).tick) hlen rfl
  rw [readWithRetry, hd, Nat.add_assoc, Nat.add_comm 1 d, hfailures,
    retryLoop_succ _ _ _ _ (ne_zero_of_le le_rfl (le_countdown hcancel)), hlast, if_neg hans]
  rfl

/-- Transient failures up to the bound (43_environment_ops.md R147, R148). -/
theorem readWithRetry_exhausted {a : BusAddr} {n : Nat} {s : State} {more : List Answer}
    (hlen : registerLength a = some n)
    (hcancel : ∀ m, s.retry.cancelIn = some m → s.retry.maxAttempts ≤ m)
    (hscript : s.script = List.replicate s.retry.maxAttempts Answer.busError ++ more) :
    readWithRetry a n s =
      (.error .retryExhausted, s.afterFailures a n s.retry.maxAttempts more) :=
  retryLoop_failures hlen hcancel hscript 0

/-- Transient failures up to the cancellation signal, which comes within the bound
(43_environment_ops.md R152). -/
theorem readWithRetry_cancelled {a : BusAddr} {n k : Nat} {s : State} {more : List Answer}
    (hlen : registerLength a = some n) (hattempts : k + 1 ≤ s.retry.maxAttempts)
    (hcancel : s.retry.cancelIn = some k)
    (hscript : s.script = List.replicate k Answer.busError ++ more) :
    readWithRetry a n s = (.error .cancelled, s.afterFailures a n k more) := by
  obtain ⟨d, hd⟩ := Nat.exists_eq_add_of_le hattempts
  have hfailures := retryLoop_failures hlen
    (fun m hm => Nat.le_of_eq (Option.some.inj (hcancel.symm.trans hm))) hscript (d + 1)
  have hsignal : (s.afterFailures a n k more).retry.cancelIn = some 0 := by
    simp [State.afterFailures, hcancel]
  rw [readWithRetry, hd, Nat.add_assoc, Nat.add_comm 1 d, hfailures,
    retryLoop_cancelled _ _ _ _ hsignal]

theorem ifAttempts_of_zero {s : State} (h : s.retry.maxAttempts = 0)
    (k : Host.Outcome State Fault Refusal) : s.ifAttempts k = .refused .attemptsOutsideDomain :=
  if_pos h

/-- A driver's read with the retry policy is the loop and its answer, where no other caller gets in
between (43_environment_ops.md R161). -/
theorem step_readWithRetry {s : State} {args : RetryArgs} {rest : List Item} {a : BusAddr} {n : Nat}
    (hp : s.pending = .call args (.readWithRetry a n) :: rest) (hs : s.scope = false)
    (hturns : s.turns = []) (hattempts : 1 ≤ args.maxAttempts) :
    step s = .next ((readWithRetry a n (s.serving args rest)).2.answer
      ((readWithRetry a n (s.serving args rest)).1.map .bytes)) := by
  rw [step_call hp, runCall, callReadWithRetry, ifAttempts_of_pos (s := s.serving args rest) hattempts,
    unlessScope_released (s := s.serving args rest) hs,
    readInTurns_alone (s := s.serving args rest) hturns, bind_bytes_eq_map]

/-- Settles O45: the loop on a script of transient failures, and the calls that start it. -/
theorem retryCountsAttempts : Obligations.RetryCountsAttempts := by
  refine ⟨fun s a n k raw rest hlen hraw hcancel hscript => ⟨fun hattempts => ?_, fun _ hk => ?_⟩,
    fun s args rest a n hp hs hturns hattempts => ?_, fun s hattempts c hc => ?_⟩
  · have hfailThen : s.script = failThen k raw ++ rest := by
      rw [hscript, failThen, List.append_assoc, List.singleton_append]
    exact ⟨_, readWithRetry_failThen hlen hraw hattempts (fun m hm => nomatch hcancel.symm.trans hm)
      hfailThen, (List.append_assoc _ _ _).symm, rfl, rfl⟩
  · have hsplit : s.script = List.replicate s.retry.maxAttempts Answer.busError ++
        (List.replicate (k - s.retry.maxAttempts) Answer.busError ++ .bytes raw :: rest) := by
      rw [hscript, ← List.append_assoc, List.replicate_append_replicate, Nat.add_sub_cancel' hk]
    exact ⟨_, readWithRetry_exhausted hlen (fun m hm => nomatch hcancel.symm.trans hm) hsplit, rfl, rfl⟩
  · exact ⟨_, _, rfl, by rw [step_readWithRetry hp hs hturns hattempts, State.answer_eq]; rfl⟩
  · obtain rfl | ⟨r, rfl⟩ | ⟨r, rfl⟩ | ⟨r, rfl⟩ | ⟨a, n, rfl⟩ := hc <;>
      exact ifAttempts_of_zero hattempts _

/-- Settles O46: a protocol answer ends the read, and so does a signal that has come. -/
theorem protocolErrorAndCancellationEndTheLoop :
    Obligations.ProtocolErrorAndCancellationEndTheLoop := by
  refine ⟨fun s a n k rest hlen hcancel hattempts hscript => ?_,
    fun s a n j rest hlen hcancel hattempts hscript => ?_⟩
  · have hans : (readEnd n .protocolError).1 ≠ .error .busError := by simp [readEnd]
    exact ⟨_, readWithRetry_answer hlen hans hattempts (fun m hm => nomatch hcancel.symm.trans hm) hscript,
      rfl, rfl⟩
  · exact ⟨_, readWithRetry_cancelled hlen hattempts hcancel hscript, rfl, rfl⟩

/-! ### Single-attempt writes -/

theorem nextAnswer_of_script {s : State} {ans : Answer} {more : List Answer}
    (h : s.script = ans :: more) : nextAnswer s = (ans, { s with script := more }) := by
  rw [nextAnswer, h]

/-- Past the end of the script the counter draws a free value (92_eei_decisions.md D32). -/
theorem nextAnswer_of_script_nil {s : State} (h : s.script = []) :
    nextAnswer s = (Config.transportAnswer s.asked, { s with asked := s.asked + 1 }) := by
  rw [nextAnswer, h]

/-- Settles O47: the one answer that the write draws, by what it is. -/
theorem writesUseASingleAttempt : Obligations.WritesUseASingleAttempt := by
  intro s a raw hlen
  rw [writeAnd_eq_afterWrite hlen]
  refine ⟨rfl, fun b rest hscript => ?_, fun e rest hscript he => ?_, fun hscript => ?_⟩
  · rw [afterWrite, nextAnswer_of_script hscript]
    rfl
  · rw [afterWrite, nextAnswer_of_script hscript]
    obtain rfl | rfl := he <;> rfl
  · rw [afterWrite, nextAnswer_of_script_nil hscript]

/-! ### What the reads of a composite put on the trace -/

/-- A trace of reads of `n` bytes at the registers `as` alone. -/
def ReadsOf (as : List BusAddr) (n : Nat) (es : List BusEvent) : Prop :=
  ∀ e ∈ es, ∃ a ∈ as, ∃ x, e = .read a n x

theorem ReadsOf.nil (as : List BusAddr) (n : Nat) : ReadsOf as n [] := nofun

theorem ReadsOf.cons {as : List BusAddr} {n : Nat} {es : List BusEvent} {a : BusAddr} (ha : a ∈ as)
    (x : Xfer) (h : ReadsOf as n es) : ReadsOf as n (.read a n x :: es) :=
  List.forall_mem_cons.mpr ⟨⟨a, ha, x, rfl⟩, h⟩

theorem ReadsOf.append {as : List BusAddr} {n : Nat} {es fs : List BusEvent} (h : ReadsOf as n es)
    (k : ReadsOf as n fs) : ReadsOf as n (es ++ fs) :=
  List.forall_mem_append.mpr ⟨h, k⟩

theorem ReadsOf.mono {as bs : List BusAddr} {n : Nat} {es : List BusEvent} (hsub : as ⊆ bs)
    (h : ReadsOf as n es) : ReadsOf bs n es :=
  fun e he => (h e he).imp fun _ ha => ha.imp_left fun hmem => hsub hmem

theorem retryLoop_readsOf (a : BusAddr) (n k : Nat) (s : State) :
    ∃ es, (retryLoop a n k s).2.bus = s.bus ++ es ∧ ReadsOf [a] n es := by
  induction k generalizing s with
  | zero => exact ⟨[], (List.append_nil _).symm, .nil _ _⟩
  | succ k ih =>
    by_cases hc : s.retry.cancelIn = some 0
    · rw [retryLoop_cancelled a n k s hc]
      exact ⟨[], (List.append_nil _).symm, .nil _ _⟩
    · obtain ⟨-, x, hbus, -⟩ := readRegister_spec a n s.tick
      rw [retryLoop_succ a n k s hc]
      split
      · obtain ⟨es, hes, hreads⟩ := ih ((readRegister a n s.tick).2.logFailure a)
        refine ⟨.read a n x :: es, ?_, hreads.cons (List.mem_singleton_self a) x⟩
        rw [hes, State.logFailure_bus, hbus, State.tick_bus, List.append_assoc, List.singleton_append]
      · exact ⟨[.read a n x], hbus, (ReadsOf.nil _ _).cons (List.mem_singleton_self a) x⟩

/-- The first failure ends a composite with that error (43_environment_ops.md R150). -/
theorem readEach_cons_of_error {a : BusAddr} {s t : State} {e : Error}
    (h : readWithRetry a 1 s = (.error e, t)) (rest : List BusAddr) :
    readEach (a :: rest) s = (.error e, t) := by
  rw [readEach, h]

theorem readEach_cons_of_ok {a : BusAddr} {s t : State} {raw : List Byte}
    (h : readWithRetry a 1 s = (.ok raw, t)) (rest : List BusAddr) :
    readEach (a :: rest) s = ((readEach rest t).1.map (raw ++ ·), (readEach rest t).2) := by
  simp only [readEach, h]
  rcases readEach rest t with ⟨_ | _, u⟩ <;> rfl

theorem readEach_readsOf (as : List BusAddr) (s : State) :
    ∃ es, (readEach as s).2.bus = s.bus ++ es ∧ ReadsOf as 1 es := by
  induction as generalizing s with
  | nil => exact ⟨[], (List.append_nil _).symm, .nil _ _⟩
  | cons a rest ih =>
    obtain ⟨es, hes, hreads⟩ := retryLoop_readsOf a 1 s.retry.maxAttempts s
    have hfirst : ReadsOf (a :: rest) 1 es := hreads.mono (by simp)
    rcases hr : readWithRetry a 1 s with ⟨r, t⟩
    have ht : t.bus = s.bus ++ es := by
      rw [← hes]
      exact congrArg (fun p => p.2.bus) hr.symm
    cases r with
    | error e => exact ⟨es, by rw [readEach_cons_of_error hr, ht], hfirst⟩
    | ok raw =>
      obtain ⟨fs, hfs, hrest⟩ := ih t
      refine ⟨es ++ fs, ?_, hfirst.append (hrest.mono (List.subset_cons_self a rest))⟩
      rw [readEach_cons_of_ok hr, hfs, ht, List.append_assoc]

/-- A composite read is one scope that holds reads of its own registers alone
(43_environment_ops.md R151). -/
theorem readComposite_readsOf (as : List BusAddr) (s : State) :
    ∃ es, (readComposite as s).2.bus = s.bus ++ [BusEvent.enterScope] ++ es ++ [BusEvent.leaveScope] ∧
      ReadsOf as 1 es := by
  obtain ⟨es, hes, hreads⟩ := readEach_readsOf as s.enterScope
  exact ⟨es, congrArg (· ++ [BusEvent.leaveScope]) hes, hreads⟩

/-! ### The composite calls -/

/-- The call `c` reads the one-byte registers `as` as a composite and decodes their bytes, for which its
decoder has an outcome whatever they are (43_environment_ops.md R153, R154). -/
structure ReadsComposite (c : Call) (as : List BusAddr) : Prop where
  length : ∀ a ∈ as, registerLength a = some 1
  run : ∃ (dec : List Byte → Host.Outcome (Except Error Rat) Fault Refusal) (result : Rat → Result),
    (∀ raw, ∃ o, dec raw = .next o) ∧
    ∀ s, runCall c s = s.ifAttempts (s.unlessScope
      (endReading (readComposite as s).1 (readComposite as s).2 dec result))

/-- The two composite calls and their registers. -/
theorem readsComposite_of_call {c : Call} {as : List BusAddr}
    (h : ((∃ r, c = .getPressure r) ∧ as = pressureRegs) ∨
      ((∃ r, c = .getTemperature r) ∧ as = temperatureRegs)) : ReadsComposite c as := by
  obtain ⟨⟨r, rfl⟩, rfl⟩ | ⟨⟨r, rfl⟩, rfl⟩ := h
  · exact ⟨by decide, _, _, decodePressure_of_pos (by decide) r, fun _ => rfl⟩
  · exact ⟨by decide, _, _, decodeTemperature_of_pos (by decide) r, fun _ => rfl⟩

section Composite
variable {s : State} {args : RetryArgs} {c : Call} {as : List BusAddr} {rest : List Item}

/-- A composite call that goes on has met a released scope, and ends with one response to its read. -/
theorem composite_of_step {t : State} (hc : ReadsComposite c as)
    (hp : s.pending = .call args c :: rest) (hstep : step s = .next t) :
    s.scope = false ∧ ∃ r, t = (readComposite as (s.serving args rest)).2.respond r := by
  obtain ⟨dec, result, hdec, hrun⟩ := hc.run
  rw [step_call hp, hrun] at hstep
  obtain hzero | hpos := Nat.eq_zero_or_pos args.maxAttempts
  · rw [ifAttempts_of_zero (s := s.serving args rest) hzero] at hstep
    cases hstep
  · rw [ifAttempts_of_pos (s := s.serving args rest) hpos] at hstep
    obtain ⟨hs, h⟩ | ⟨-, h⟩ := unlessScope_spec (s.serving args rest) _ <;> rw [h] at hstep
    · obtain ⟨r, hr⟩ := endReading_eq_respond (readComposite as (s.serving args rest)).1
        (readComposite as (s.serving args rest)).2 hdec result
      rw [hr] at hstep
      cases hstep
      exact ⟨hs, r, rfl⟩
    · cases hstep

/-- A composite call whose reads fail ends with their error, and nothing is decoded. -/
theorem step_composite_error {e : Error} {u : State} (hc : ReadsComposite c as)
    (hp : s.pending = .call args c :: rest) (hs : s.scope = false) (hattempts : 1 ≤ args.maxAttempts)
    (hread : readEach as (s.serving args rest).enterScope = (.error e, u)) :
    step s = .next (u.leaveScope.raise e) := by
  obtain ⟨dec, result, -, hrun⟩ := hc.run
  rw [step_call hp, hrun, ifAttempts_of_pos (s := s.serving args rest) hattempts,
    unlessScope_released (s := s.serving args rest) hs, readComposite, hread]
  rfl

end Composite

/-- Settles O48: what a composite call can do, and what its read puts on the trace. -/
theorem compositeReadsReleaseTheScope : Obligations.CompositeReadsReleaseTheScope := by
  intro s t args c regs rest hp hcall hstep
  obtain ⟨hs, r, rfl⟩ := composite_of_step (readsComposite_of_call hcall) hp hstep
  exact ⟨hs, rfl, readComposite_readsOf regs (s.serving args rest)⟩

/-! ### The first failing read of a composite -/

/-- Reads that succeed, and then one that fails with `e`: the whole fails with `e`, and the registers after
that one are not read. -/
theorem readEach_append_of_error {as bs : List BusAddr} {s t u : State} {raw : List Byte} {e : Error}
    (hdone : readEach as s = (.ok raw, t)) (hfail : readEach bs t = (.error e, u)) :
    readEach (as ++ bs) s = (.error e, u) := by
  induction as generalizing s raw with
  | nil =>
    cases hdone
    exact hfail
  | cons a as ih =>
    rcases hr : readWithRetry a 1 s with ⟨r, v⟩
    cases r with
    | error e' =>
      rw [readEach_cons_of_error hr] at hdone
      cases hdone
    | ok first =>
      rw [readEach_cons_of_ok hr] at hdone
      rcases hrest : readEach as v with ⟨r, w⟩
      rw [hrest] at hdone
      cases r with
      | error e' => cases hdone
      | ok more =>
        cases hdone
        rw [List.cons_append, readEach_cons_of_ok hr, ih hrest]
        rfl

/-- The ways in which a read fails after `k` transient failures: the answers `fail` that it draws after
them, the events `tr` that stand after theirs on the trace, and the error (43_environment_ops.md R147,
R152). -/
inductive ReadFailure (retry : RetryArgs) (a : BusAddr) (n : Nat) :
    Nat → List Answer → List BusEvent → Error → Prop where
  | protocolError (k : Nat) (ans : Answer)
      (hans : readEnd n ans = (.error .protocolError, .protocolError))
      (hattempts : k + 1 ≤ retry.maxAttempts) (hcancel : ∀ m, retry.cancelIn = some m → k + 1 ≤ m) :
      ReadFailure retry a n k [ans] [.read a n .protocolError] .protocolError
  | exhausted (hcancel : ∀ m, retry.cancelIn = some m → retry.maxAttempts ≤ m) :
      ReadFailure retry a n retry.maxAttempts [] [] .retryExhausted
  | cancelled (k : Nat) (hattempts : k + 1 ≤ retry.maxAttempts) (hcancel : retry.cancelIn = some k) :
      ReadFailure retry a n k [] [] .cancelled

/-- A failing read gives its own error, makes no call beyond those named, and logs its transient
failures. -/
theorem ReadFailure.read {s : State} {a : BusAddr} {n k : Nat} {fail more : List Answer}
    {tr : List BusEvent} {e : Error} (h : ReadFailure s.retry a n k fail tr e)
    (hlen : registerLength a = some n)
    (hscript : s.script = List.replicate k Answer.busError ++ fail ++ more) :
    ∃ t, readWithRetry a n s = (.error e, t) ∧ t.script = more ∧
      t.bus = s.bus ++ List.replicate k (BusEvent.read a n .busError) ++ tr ∧
      t.log = s.log ++ List.replicate k a := by
  rw [List.append_assoc] at hscript
  cases h with
  | protocolError k ans hans hattempts hcancel =>
    have hread := readWithRetry_answer hlen (by simp [hans]) hattempts hcancel hscript
    rw [hans] at hread
    exact ⟨_, hread, rfl, rfl, rfl⟩
  | exhausted hcancel =>
    exact ⟨_, readWithRetry_exhausted hlen hcancel hscript, rfl, (List.append_nil _).symm, rfl⟩
  | cancelled k hattempts hcancel =>
    exact ⟨_, readWithRetry_cancelled hlen hattempts hcancel hscript, rfl, (List.append_nil _).symm, rfl⟩

/-- The retry arguments after `j` attempts, which one count down to the signal has counted
(notes/assumptions/15.md). -/
def RetryArgs.after (args : RetryArgs) (j : Nat) : RetryArgs :=
  { args with cancelIn := args.cancelIn.map (fun m => m - j) }

theorem State.afterReadings_retry (s : State) (rs : List Reading) (more : List Answer) :
    (s.afterReadings rs more).retry = s.retry.after (attemptsOf rs) := rfl

/-- A composite call in which the readings `done` come and the read of `a` then fails: that read's error is
the answer, and its attempts and theirs, and no other, stand in the scope. -/
theorem step_composite_failure {s : State} {args : RetryArgs} {rest : List Item} {c : Call}
    {done : List Reading} {a : BusAddr} {post : List BusAddr} {k : Nat} {fail left more : List Answer}
    {tr : List BusEvent} {e : Error} (hc : ReadsComposite c (done.map (fun r => r.reg) ++ a :: post))
    (hp : s.pending = .call args c :: rest) (hs : s.scope = false) (hpos : 1 ≤ args.maxAttempts)
    (hattempts : ∀ r ∈ done, r.failures + 1 ≤ args.maxAttempts)
    (hcancel : ∀ m, args.cancelIn = some m → attemptsOf done ≤ m)
    (hfailure : ReadFailure (args.after (attemptsOf done)) a 1 k fail tr e)
    (hscript : s.script = done.flatMap (fun r => failThen r.failures [r.byte]) ++ left)
    (hleft : left = List.replicate k Answer.busError ++ fail ++ more) :
    ∃ t, step s = .next t ∧ t.pending = rest ∧ t.script = more ∧ t.scope = false ∧
      t.responses = s.responses ++ [Response.err e] ∧
      t.bus = s.bus ++ [BusEvent.enterScope] ++ done.flatMap (fun r => failThenTrace r.reg 1 r.failures) ++
        List.replicate k (BusEvent.read a 1 .busError) ++ tr ++ [BusEvent.leaveScope] ∧
      t.log = s.log ++ done.flatMap (fun r => List.replicate r.failures r.reg) ++ List.replicate k a := by
  obtain ⟨hlen_done, hlen_fail⟩ := List.forall_mem_append.mp hc.length
  obtain ⟨hlen, -⟩ := List.forall_mem_cons.mp hlen_fail
  have hdone := readEach_readings (s := (s.serving args rest).enterScope)
    (List.forall_mem_map.mp hlen_done) hattempts hcancel hscript
  have hretry : ((s.serving args rest).enterScope.afterReadings done left).retry =
      args.after (attemptsOf done) := State.afterReadings_retry _ _ _
  rw [← hretry] at hfailure
  obtain ⟨u, hread, hmore, hbus, hlog⟩ := hfailure.read hlen hleft
  obtain ⟨hframe, -⟩ := readWithRetry_spec a 1 ((s.serving args rest).enterScope.afterReadings done left)
  rw [hread] at hframe
  refine ⟨_, step_composite_error hc hp hs hpos
    (readEach_append_of_error hdone (readEach_cons_of_error hread post)),
    hframe.pending, hmore, rfl, ?_, ?_, hlog⟩
  · exact congrArg (· ++ [Response.err e]) hframe.responses
  · exact congrArg (· ++ [BusEvent.leaveScope]) hbus

/-- Settles O54: the three ways in which the read of `a` fails, after the attempts of the readings before
it. -/
theorem compositeReadsFailWithTheFirstError : Obligations.CompositeReadsFailWithTheFirstError := by
  intro s args rest c done a post k fail more e tr hp hs hpos hcall hattempts hend hscript
  rw [List.append_assoc, List.append_assoc, ← List.append_assoc (List.replicate _ _)] at hscript
  have hc := readsComposite_of_call hcall
  obtain ⟨hk, hcancel, hfail, rfl, rfl⟩ | ⟨rfl, hcancel, rfl, rfl, rfl⟩ | ⟨hk, hcancel, rfl, rfl, rfl⟩ :=
    hend
  · obtain ⟨ans, hans, rfl⟩ : ∃ ans, readEnd 1 ans = (.error .protocolError, .protocolError) ∧
        fail = [ans] := by
      obtain rfl | ⟨raw, hraw, rfl⟩ := hfail
      · exact ⟨_, rfl, rfl⟩
      · exact ⟨.bytes raw, if_neg hraw, rfl⟩
    exact step_composite_failure hc hp hs hpos hattempts (fun m hm => by have := hcancel m hm; omega)
      (.protocolError k ans hans hk (le_countdown hcancel)) hscript rfl
  · exact step_composite_failure hc hp hs hpos hattempts
      (fun m hm => (Nat.le_add_right _ _).trans (hcancel m hm))
      (.exhausted (retry := args.after (attemptsOf done)) (le_countdown hcancel)) hscript rfl
  · exact step_composite_failure hc hp hs hpos hattempts
      (fun m hm => Option.some.inj (hcancel.symm.trans hm) ▸ Nat.le_add_right _ _)
      (.cancelled k hk (by simp [RetryArgs.after, hcancel])) hscript rfl

end Sys2Proof.Machine
